-- ==== Sys2Proof/Word.lean ====
section
/-! DEFINITION. The words of the block: bytes, 16-bit checksums, byte sequences, texts, and the tagged operand values of a
request (00_scope.md R13, 30_encoding.md R54). -/

namespace Sys2Proof

/-- `u8`: the unit of every buffer and the width of the `STX` register (R13, R16, R28). -/
abbrev Byte := BitVec 8

/-- `u16`: the width of a checksum (`CRC_W`, R11, R90). -/
abbrev U16 := BitVec 16

/-- A byte sequence, offset 0 first (R13, R28, R30). -/
abbrev Bytes := List Byte

/-- A text: a finite list of 8-bit character codes (R13, `CHAR_W` = 8 of R11, R57). -/
abbrev Text := List Byte

/-- An operand value `Val` (R54). An `INT` holds the mathematical integer, which is what every rule of an operation compares
(R12, R56). `OTHER` is ONE value: the tags `0x04` to `0xFF` are not told apart (R63). -/
inductive Val where
  /-- tag `0x00`: the absent value -/
  | none
  /-- tag `0x01`: an integer -/
  | int (n : Int)
  /-- tag `0x02`: a byte sequence -/
  | bytes (b : Bytes)
  /-- tag `0x03`: a text -/
  | text (t : Text)
  /-- tags `0x04` to `0xFF`: any unsupported shape -/
  | other
  deriving DecidableEq, Repr

end Sys2Proof
end

