-- ==== Sys2Proof/Config.lean ====
section
/-! DEFINITION. What an instance of the block fixes: the three open parameters of 00_scope.md R11. The constants of R11 that
are no parameters stand with the operation that uses them (Machine/). The spec leaves no VALUE open, so there is no free
value here (log 20). -/

namespace Sys2Proof

/-- The parameters R11 marks "argument". -/
structure Config where
  /-- `STX_INIT`: what the `STX` register takes at reset (R11, R138); any byte -/
  stxInit : Byte
  /-- `INT_W`: the width of an integer operand at the interface (R11, R54) -/
  intW : Nat
  /-- `BUF_MAX`: the largest byte count of a byte sequence or text operand (R11, R54) -/
  bufMax : Nat
  deriving DecidableEq, Repr

/-- The values this hardware takes (R11): `STX_INIT` = `0xA5`, and `INT_W` = 32, `BUF_MAX` = 65535, which the serialisation
of requests fixes (R55). -/
def Config.default : Config := ⟨0xA5#8, 32, 65535⟩

/-- The values R11 allows: any `STX_INIT`, `INT_W` of at least 10, `BUF_MAX` of at least 259. -/
def Config.legal (c : Config) : Bool :=
  decide (10 ≤ c.intW) && decide (259 ≤ c.bufMax)

end Sys2Proof
end

