-- ==== Sys2Proof/Syntax.lean ====
section
/-! DEFINITION. The instructions of the block: its five operations with their operands (00_scope.md R3, 30_encoding.md R53).
Every operand is given by value (R58); there are no pseudo-instructions (R66). -/

namespace Sys2Proof

/-- One constructor per row of the operation table (R53). A `RawBuf` operand is a bare byte sequence (R54). -/
inductive Instr where
  /-- `TO_U8 value` (op `0x01`, R77) -/
  | toU8 (value : Val)
  /-- `TO_PAYLOAD value` (op `0x02`, R83) -/
  | toPayload (value : Val)
  /-- `CHECKSUM buf` (op `0x03`, R93) -/
  | checksum (buf : Bytes)
  /-- `BUILD addr, cmd, data` (op `0x04`, R100) -/
  | build (addr cmd data : Val)
  /-- `PARSE buf` (op `0x05`, R110) -/
  | parse (buf : Bytes)
  deriving DecidableEq, Repr

end Sys2Proof
end

