-- ==== Sys2Proof/WellFormed.lean ====
section
/-! DEFINITION. Which instructions can be presented at the interface of an instance: integers that fit `INT_W` bits, byte
sequences and texts of at most `BUF_MAX` bytes (00_scope.md R11, 30_encoding.md R54). The meanings do not use these checks:
R12 states every operation on all integers and all finite sequences. -/

namespace Sys2Proof

/-- `INT n` fits the interface: `-2^(INT_W-1) <= n < 2^(INT_W-1)` (R54). -/
def intFits (c : Config) (n : Int) : Bool :=
  decide (-(2 : Int) ^ (c.intW - 1) ≤ n) && decide (n < (2 : Int) ^ (c.intW - 1))

/-- `0 <= len(b) <= BUF_MAX` (R54). -/
def bufFits (c : Config) (b : Bytes) : Bool :=
  decide (b.length ≤ c.bufMax)

/-- A `Val` that can be presented (R54). -/
def Val.wellFormed (c : Config) : Val → Bool
  | .none => true
  | .int n => intFits c n
  | .bytes b => bufFits c b
  | .text t => bufFits c t
  | .other => true

/-- An instruction all of whose operands can be presented (R53, R54). -/
def Instr.wellFormed (c : Config) : Instr → Bool
  | .toU8 v => v.wellFormed c
  | .toPayload v => v.wellFormed c
  | .checksum b => bufFits c b
  | .build a m d => a.wellFormed c && m.wellFormed c && d.wellFormed c
  | .parse b => bufFits c b

end Sys2Proof
end

