-- ==== Sys2Proof/Decode.lean ====
section
/-! DEFINITION. From the bytes of a request to an instruction and back: the serialisation of requests, 30_encoding.md R53 to
R58 and R61 to R64. The decoder is total on any bytes and rejects by name. After it the encoder, written from the same
tables, and the layout of an operation table word that the host asks for. -/

namespace Sys2Proof

/-- Why bytes are no request. -/
inductive DecodeError where
  /-- the first byte is a reserved operation code, `0x00` or `0x06` to `0xFF` (R61) -/
  | illegalOp
  /-- no bytes at all, or bytes after a defined operation code that are not exactly its operands (R62) -/
  | badRequest
  deriving DecidableEq, Repr

/-! ### Byte order of the interface: big-endian (R55) -/

/-- A 16-bit length field, high byte first (R55). -/
def be16 (hi lo : Byte) : Nat :=
  256 * hi.toNat + lo.toNat

/-- The two bytes of a 16-bit field, high byte first (R55). -/
def be16Bytes (n : Nat) : Bytes :=
  [BitVec.ofNat 8 (n / 256), BitVec.ofNat 8 n]

/-- The integer of an `INT` body `b3 b2 b1 b0` in the order sent: 32-bit two's complement (R56). -/
def int32 (b3 b2 b1 b0 : Byte) : Int :=
  let p : Nat := b3.toNat * 2 ^ 24 + b2.toNat * 2 ^ 16 + b1.toNat * 2 ^ 8 + b0.toNat
  if p < 2 ^ 31 then (p : Int) else (p : Int) - 2 ^ 32

/-- The four body bytes of `INT n`, most significant first (R55). -/
def int32Bytes (n : Int) : Bytes :=
  let p : Nat := (n % 2 ^ 32).toNat
  [BitVec.ofNat 8 (p / 2 ^ 24), BitVec.ofNat 8 (p / 2 ^ 16), BitVec.ofNat 8 (p / 2 ^ 8), BitVec.ofNat 8 p]

/-! ### The decoder -/

/-- The first `n` bytes and what follows, or nothing when fewer are left. -/
def takeExactly (n : Nat) (bs : Bytes) : Option (Bytes × Bytes) :=
  if n ≤ bs.length then some (bs.take n, bs.drop n) else none

/-- A length field and as many bytes: a `RawBuf`, and the body of `BYTES` and `TEXT` (R55). -/
def decodeBuf : Bytes → Option (Bytes × Bytes)
  | hi :: lo :: rest => takeExactly (be16 hi lo) rest
  | _ => none

/-- One `Val` and the bytes after it, its length told by its tag (R54, R55, R63, R64). -/
def decodeVal : Bytes → Option (Val × Bytes)
  | [] => none
  | tag :: rest =>
    if tag = 0x00#8 then some (.none, rest)
    else if tag = 0x01#8 then
      match rest with
      | b3 :: b2 :: b1 :: b0 :: after => some (.int (int32 b3 b2 b1 b0), after)
      | _ => none
    else if tag = 0x02#8 then
      match decodeBuf rest with
      | some (b, after) => some (.bytes b, after)
      | none => none
    else if tag = 0x03#8 then
      match decodeBuf rest with
      | some (t, after) => some (.text t, after)
      | none => none
    else some (.other, rest)

/-- Format `REQ_V`: one `Val` and nothing after it (R55, R62). -/
def decodeV (make : Val → Instr) (rest : Bytes) : Except DecodeError Instr :=
  match decodeVal rest with
  | some (v, []) => .ok (make v)
  | _ => .error .badRequest

/-- Format `REQ_B`: one `RawBuf` and nothing after it (R55, R62). -/
def decodeB (make : Bytes → Instr) (rest : Bytes) : Except DecodeError Instr :=
  match decodeBuf rest with
  | some (b, []) => .ok (make b)
  | _ => .error .badRequest

/-- Format `REQ_VVV`: three `Val` and nothing after them (R55, R62). -/
def decodeVVV (make : Val → Val → Val → Instr) (rest : Bytes) : Except DecodeError Instr :=
  match decodeVal rest with
  | some (a, rest1) =>
    match decodeVal rest1 with
    | some (m, rest2) =>
      match decodeVal rest2 with
      | some (d, []) => .ok (make a m d)
      | _ => .error .badRequest
    | none => .error .badRequest
  | none => .error .badRequest

/-- The instruction a request's bytes stand for. The operation code is looked at first (R53, R61), then its operands, which
must use up the bytes (R62, R127). -/
def decode : Bytes → Except DecodeError Instr
  | [] => .error .badRequest
  | op :: rest =>
    if op = 0x01#8 then decodeV .toU8 rest
    else if op = 0x02#8 then decodeV .toPayload rest
    else if op = 0x03#8 then decodeB .checksum rest
    else if op = 0x04#8 then decodeVVV .build rest
    else if op = 0x05#8 then decodeB .parse rest
    else .error .illegalOp

/-! ### The encoder -/

/-- The operation code (R53). -/
def Instr.opcode : Instr → Byte
  | .toU8 _ => 0x01#8
  | .toPayload _ => 0x02#8
  | .checksum _ => 0x03#8
  | .build _ _ _ => 0x04#8
  | .parse _ => 0x05#8

/-- A `RawBuf` as bytes: length, high byte first, then the bytes (R55). -/
def encodeBuf (b : Bytes) : Bytes :=
  be16Bytes b.length ++ b

/-- A `Val` as bytes (R55). `OTHER` has many tags and is written with the first, `0x04` (log 17). -/
def encodeVal : Val → Bytes
  | .none => [0x00#8]
  | .int n => 0x01#8 :: int32Bytes n
  | .bytes b => 0x02#8 :: encodeBuf b
  | .text t => 0x03#8 :: encodeBuf t
  | .other => [0x04#8]

/-- An instruction's operands as bytes, in the order of R53. -/
def encodeOperands : Instr → Bytes
  | .toU8 v => encodeVal v
  | .toPayload v => encodeVal v
  | .checksum b => encodeBuf b
  | .build a m d => encodeVal a ++ encodeVal m ++ encodeVal d
  | .parse b => encodeBuf b

/-- A request as bytes: `OP`, then the operands (R55). -/
def encode (i : Instr) : Bytes :=
  i.opcode :: encodeOperands i

/-- The length of a `Val` as bytes (R64). -/
def valLength : Val → Nat
  | .none => 1
  | .int _ => 5
  | .bytes b => 3 + b.length
  | .text t => 3 + t.length
  | .other => 1

/-- The length of a request as bytes (R64). -/
def requestLength : Instr → Nat
  | .toU8 v => 1 + valLength v
  | .toPayload v => 1 + valLength v
  | .checksum b => 1 + (2 + b.length)
  | .build a m d => 1 + (valLength a + valLength m + valLength d)
  | .parse b => 1 + (2 + b.length)

/-! ### An operation table word as a request (log 14)

The table numbers the bits of a request from the least significant bit of its first byte and gives a row the 8 bits of `OP`
only; every bit the request has above them is zero. A request's length depends on its bytes (R64), so the word's bytes are
filled up with as many zero bytes as the operands they begin still lack. -/

/-- The first `n` bytes of a word, least significant byte first: the first byte of the request lies lowest. -/
def wordBytes : Nat → Nat → Bytes
  | 0, _ => []
  | n + 1, w => BitVec.ofNat 8 w :: wordBytes n (w / 256)

/-- The first `n` bytes, with zeros for those that are missing. -/
def zeroFill (n : Nat) (bs : Bytes) : Bytes :=
  bs.take n ++ List.replicate (n - bs.length) 0x00#8

/-- The bytes of the `RawBuf` that `bs` begins, filled up with zeros, and what follows. -/
def zeroFillBuf (bs : Bytes) : Bytes × Bytes :=
  match zeroFill 2 bs with
  | [hi, lo] => (hi :: lo :: zeroFill (be16 hi lo) (bs.drop 2), bs.drop (2 + be16 hi lo))
  | _ => ([], [])

/-- The bytes of the `Val` that `bs` begins, filled up with zeros, and what follows. -/
def zeroFillVal : Bytes → Bytes × Bytes
  | [] => ([0x00#8], [])
  | tag :: rest =>
    if tag = 0x01#8 then (tag :: zeroFill 4 rest, rest.drop 4)
    else if tag = 0x02#8 ∨ tag = 0x03#8 then
      (tag :: (zeroFillBuf rest).1, (zeroFillBuf rest).2)
    else ([tag], rest)

/-- The request that `bs` begins, filled up with zeros; bytes that are too many stay. -/
def zeroFillRequest : Bytes → Bytes
  | [] => [0x00#8]
  | op :: rest =>
    if op = 0x01#8 ∨ op = 0x02#8 then
      op :: ((zeroFillVal rest).1 ++ (zeroFillVal rest).2)
    else if op = 0x03#8 ∨ op = 0x05#8 then
      op :: ((zeroFillBuf rest).1 ++ (zeroFillBuf rest).2)
    else if op = 0x04#8 then
      let a := zeroFillVal rest
      let m := zeroFillVal a.2
      let d := zeroFillVal m.2
      op :: (a.1 ++ m.1 ++ d.1 ++ d.2)
    else op :: rest

/-- The request whose bits are `w`, numbered as the operation table numbers them, zero above `nbits`. -/
def tableRequest (nbits w : Nat) : Bytes :=
  zeroFillRequest (wordBytes ((nbits + 7) / 8) (w % 2 ^ nbits))

/-- The instruction the decoder reads from an operation table word; nothing where it refuses. -/
def decodeTableWord (nbits w : Nat) : Option Instr :=
  match decode (tableRequest nbits w) with
  | .ok i => some i
  | .error _ => none

end Sys2Proof
end

