-- ==== Sys2Proof/Machine/State.lean ====
section
/-! DEFINITION. The state of one instance of the block as plain data: its one register, and beside it, as the model's own
fields, what the host will do and what it has been answered (10_state.md R15, R16, R26). -/

namespace Sys2Proof.Machine

/-- The failure statuses of a transaction (60_exceptions.md R123, 30_encoding.md R60). A failure is an answer, after which
the block goes on (R122, R131); it is no fault of the model. -/
inductive Failure where
  /-- `TYPE_ERROR`: an operand of an unsupported shape (R82, R88) -/
  | typeError
  /-- `FORMAT_NUMBER`: a text that is no numeral (R73, R74) -/
  | formatNumber
  /-- `FORMAT_TOO_SHORT`: `PARSE` of fewer than 6 bytes (R111) -/
  | formatTooShort
  /-- `FORMAT_BAD_STX`: byte 0 is not the `STX` register (R112) -/
  | formatBadStx
  /-- `FORMAT_TRUNCATED`: fewer than `LEN + 4` bytes (R114) -/
  | formatTruncated
  /-- `FORMAT_BAD_LEN`: `LEN < 2` (R113) -/
  | formatBadLen
  /-- `RANGE_VALUE`: a number outside 0..255 (R76, R78, R87) -/
  | rangeValue
  /-- `RANGE_FRAME_TOO_LARGE`: `2 + len(payload) > 255` (R103) -/
  | rangeFrameTooLarge
  /-- `CHECKSUM_ERROR`: the stored checksum is not the recomputed one (R115) -/
  | checksumError
  /-- `ILLEGAL_OP`: a reserved operation code (R61) -/
  | illegalOp
  /-- `BAD_REQUEST`: bytes that form no request (R62) -/
  | badRequest
  deriving DecidableEq, Repr

/-- The result of a transaction whose status is `OK` (R53). -/
inductive Result where
  /-- of `TO_U8` -/
  | u8 (v : Byte)
  /-- of `CHECKSUM` -/
  | u16 (c : U16)
  /-- of `TO_PAYLOAD` (the payload) and of `BUILD` (the frame) -/
  | bytes (b : Bytes)
  /-- of `PARSE` -/
  | parsed (addr cmd : Byte) (payload : Bytes)
  deriving DecidableEq, Repr

/-- A response: a status, and a result only when the status is `OK` (30_encoding.md R52, 60_exceptions.md R131). -/
inductive Response where
  | ok (r : Result)
  | fail (f : Failure)
  deriving DecidableEq, Repr

/-- What the host does: the inputs of the block (10_state.md R26). The spec asks the host not to do the second and the third
(70_reset_and_hazards.md R143, R144). -/
inductive HostAction where
  /-- presents a request, as bytes, and keeps its buffers still until the answer (R52, R55) -/
  | present (request : Bytes)
  /-- presents a request whose bytes change before the answer (R143) -/
  | presentUnstable (request : Bytes)
  /-- presents a request whose operand and result buffers overlap (R144) -/
  | presentOverlapping (request : Bytes)
  /-- resets the block with an `STX_INIT` (R138) -/
  | reset (stxInit : Byte)
  /-- presents a request and resets the block before the answer (R139) -/
  | resetDuring (request : Bytes) (stxInit : Byte)
  deriving DecidableEq, Repr

/-- One instance of the block. `stx` is its complete architectural state (R15). -/
structure State where
  /-- the `STX` register (R16): read by `BUILD` and `PARSE`, written by reset alone -/
  stx : Byte
  /-- MODEL'S OWN (log 1): what the host does next, oldest first -/
  host : List HostAction
  /-- MODEL'S OWN (log 2): the responses given so far, oldest first -/
  responses : List Response
  deriving DecidableEq, Repr

/-- Reasons to stop with a fault: NONE. The block has no trap, no out-of-bounds access and no fatal error (20_memory.md R37,
60_exceptions.md R122, R133), so the type has no constructor and no step answers with a fault (log 15; safe). -/
inductive Fault where
  deriving DecidableEq, Repr

/-- Reasons to stop because what was asked has no meaning. -/
inductive Refusal where
  /-- An instruction without a meaning. Raised by no arm of `exec` (safe). -/
  | notModelled (mnemonic : String)
  /-- A request that changes before the answer: the result is undefined and "a model should treat it as a refusal" (R143,
  93_implementation_defined.md U3). Raised by the step at such a request (safe: nothing is claimed of it). -/
  | operandChanged
  /-- Operand and result buffers that overlap: no meaning (R35, R144, 93_implementation_defined.md U4). Raised by the step at
  such a request (safe: nothing is claimed of it). -/
  | buffersOverlap
  deriving DecidableEq, Repr

/-- An instance right after reset: `STX = STX_INIT` (R27, R138), no host action waiting, nothing answered (log 1, log 2). -/
def State.resetWith (c : Config) : State :=
  { stx := c.stxInit, host := [], responses := [] }

/-- The machine right after reset, with the default parameters: `STX = 0xA5` (R11, R138; log 6). -/
def State.reset : State :=
  State.resetWith Config.default

end Sys2Proof.Machine
end

