-- ==== Sys2Proof/Machine/Flags.lean ====
section
/-! DEFINITION. The block has no flags and no condition codes (10_state.md R19): the outcome of an operation is the status of
its own response. Here are the status codes, their classes, and the bytes of a response (30_encoding.md R59, R60). -/

namespace Sys2Proof.Machine

/-- The status code `OK` (R60). -/
def statusOk : Byte := 0x00#8

/-- The status code of a failure (R60). -/
def Failure.code : Failure → Byte
  | .typeError => 0x10#8
  | .formatNumber => 0x20#8
  | .formatTooShort => 0x21#8
  | .formatBadStx => 0x22#8
  | .formatTruncated => 0x23#8
  | .formatBadLen => 0x24#8
  | .rangeValue => 0x30#8
  | .rangeFrameTooLarge => 0x31#8
  | .checksumError => 0x40#8
  | .illegalOp => 0xF0#8
  | .badRequest => 0xF1#8

/-- `status[7:4]`, the class of a status (R60): 1 TypeError, 2 FormatError, 3 RangeError, 4 ChecksumError, 15 interface. -/
def statusClass (status : Byte) : Nat :=
  status.toNat / 16

/-- The status byte of a response (R59, R60). -/
def Response.status : Response → Byte
  | .ok _ => statusOk
  | .fail f => f.code

/-- The low byte `c[7:0]` of a checksum (R13, R48). -/
def lowByte (c : U16) : Byte :=
  BitVec.ofNat 8 c.toNat

/-- The high byte `c[15:8]` of a checksum (R13, R48). -/
def highByte (c : U16) : Byte :=
  BitVec.ofNat 8 (c >>> 8).toNat

/-- A byte sequence in a response: its length as two bytes, high first, then the bytes (R59; log 18). -/
def serialiseBytes (b : Bytes) : Bytes :=
  be16Bytes b.length ++ b

/-- The body of a response whose status is `OK`; a checksum goes high byte first (R59). -/
def Result.body : Result → Bytes
  | .u8 v => [v]
  | .u16 c => [highByte c, lowByte c]
  | .bytes b => serialiseBytes b
  | .parsed a m p => a :: m :: serialiseBytes p

/-- The bytes of a response: the status, then a body only when it is `OK` (R59). -/
def Response.serialise : Response → Bytes
  | .ok r => statusOk :: r.body
  | .fail f => [f.code]

end Sys2Proof.Machine
end

