-- ==== Sys2Proof/Machine/Ops.lean ====
section
/-! DEFINITION. The operations on the state that every instruction shares: answering, failing (the block's only kind of
exception), resetting. The block has no memory across transactions (10_state.md R23), so there is none here to read or
write. -/

namespace Sys2Proof.Machine

/-- The outcome of one step of this machine. -/
abbrev StepOutcome := Host.Outcome State Fault Refusal

/-- Reading the `STX` register (R16). -/
def State.readStx (s : State) : Byte :=
  s.stx

/-- Giving a response (R52). Nothing else changes: no operation writes a register (R15, R16). -/
def State.answer (s : State) (r : Response) : State :=
  { s with responses := s.responses ++ [r] }

/-- TAKING AN EXCEPTION, the one shared operation: `raise <STATUS>` ends the operation with that status and no result; the
`STX` register is unchanged, nothing is saved, control goes nowhere (60_exceptions.md R131). There is nothing to return from:
the block takes the next request as it would any other (R133). -/
def State.raise (s : State) (f : Failure) : State :=
  s.answer (.fail f)

/-- `return v` or `raise f`, whichever an operation came to (00_scope.md R13, 60_exceptions.md R131). -/
def State.finish (s : State) (outcome : Except Failure Result) : State :=
  match outcome with
  | .ok r => s.answer (.ok r)
  | .error f => s.raise f

/-- The status with which bytes that are no instruction are answered (R61, R62). -/
def decodeFailure : DecodeError → Failure
  | .illegalOp => .illegalOp
  | .badRequest => .badRequest

/-- RESET: `STX` takes `STX_INIT`; there is no other architectural state (70_reset_and_hazards.md R138). What the host does
next and what it was answered before are the host's, and stay (log 10). -/
def State.resetTo (s : State) (stxInit : Byte) : State :=
  { s with stx := stxInit }

end Sys2Proof.Machine
end

