-- ==== Sys2Proof/Machine/Operands.lean ====
section
/-! DEFINITION. Reading operands: bytes of an input buffer (00_scope.md R13, 20_memory.md R35, R37) and the text helpers of
40_scalar_coercion.md R70 to R75. -/

namespace Sys2Proof.Machine

/-! ### Bytes of a buffer -/

/-- `b[i]`. Every rule reads inside the buffer, after a length check (R37), so the value outside never shows (log 13). -/
def byteAt (b : Bytes) (i : Nat) : Byte :=
  b.getD i 0x00#8

/-- `b[i:j]`, the bytes at offsets `i` up to and not including `j` (R13). -/
def slice (b : Bytes) (i j : Nat) : Bytes :=
  (b.drop i).take (j - i)

/-- A byte sequence read as text: code for code, which cannot fail (R75). -/
def bytesAsText (b : Bytes) : Text :=
  b

/-! ### Characters (R70, R71) -/

/-- The value of a decimal digit, `0x30` to `0x39` (R70). -/
def decValue (c : Byte) : Option Nat :=
  if 0x30 ≤ c.toNat ∧ c.toNat ≤ 0x39 then some (c.toNat - 0x30) else none

/-- The value of a hexadecimal digit: a decimal digit, `0x41` to `0x46`, or `0x61` to `0x66` (R70). -/
def hexValue (c : Byte) : Option Nat :=
  if 0x30 ≤ c.toNat ∧ c.toNat ≤ 0x39 then some (c.toNat - 0x30)
  else if 0x41 ≤ c.toNat ∧ c.toNat ≤ 0x46 then some (c.toNat - 0x41 + 10)
  else if 0x61 ≤ c.toNat ∧ c.toNat ≤ 0x66 then some (c.toNat - 0x61 + 10)
  else none

/-- `is_hex_digit` (R70). -/
def isHexDigit (c : Byte) : Bool :=
  (hexValue c).isSome

/-- The six whitespace codes (R71). -/
def isWhitespace (c : Byte) : Bool :=
  c == 0x20#8 || c == 0x09#8 || c == 0x0A#8 || c == 0x0B#8 || c == 0x0C#8 || c == 0x0D#8

/-- `trim`: without the longest prefix and the longest suffix of whitespace (R71). -/
def trim (t : Text) : Text :=
  ((t.dropWhile isWhitespace).reverse.dropWhile isWhitespace).reverse

/-! ### Numerals (R72 to R74) -/

/-- `has_0x_prefix` (R72). -/
def has0xPrefix : Text → Bool
  | c0 :: c1 :: _ => c0 == 0x30#8 && (c1 == 0x78#8 || c1 == 0x58#8)
  | _ => false

/-- The values of a text's digits; nothing when some code is no digit. -/
def digits (value : Byte → Option Nat) : Text → Option (List Nat)
  | [] => some []
  | c :: t =>
    match value c, digits value t with
    | some d, some ds => some (d :: ds)
    | _, _ => none

/-- The number that digits write in a base, most significant first, exact however many they are (R73, R74). -/
def numeral (base : Nat) (ds : List Nat) : Nat :=
  ds.foldl (fun acc d => acc * base + d) 0

/-- One or more digits as a number, else `FORMAT_NUMBER` (R73, R74). -/
def parseDigits (value : Byte → Option Nat) (base : Nat) (t : Text) : Except Failure Int :=
  match t with
  | [] => .error .formatNumber
  | _ :: _ =>
    match digits value t with
    | some ds => .ok (numeral base ds)
    | none => .error .formatNumber

/-- `parse_hex` (R73): no sign, no prefix, no whitespace, no separator. -/
def parseHex (t : Text) : Except Failure Int :=
  parseDigits hexValue 16 t

/-- `parse_dec` (R74): one optional sign, then one or more decimal digits. -/
def parseDec (t : Text) : Except Failure Int :=
  match t with
  | [] => .error .formatNumber
  | c :: d =>
    if c = 0x2B#8 then parseDigits decValue 10 d
    else if c = 0x2D#8 then
      match parseDigits decValue 10 d with
      | .ok v => .ok (-v)
      | .error f => .error f
    else parseDigits decValue 10 (c :: d)

/-- The range check every number goes through: `RANGE_VALUE` outside 0..255, on the mathematical value (R76, R78, R87); never
clamped or wrapped (60_exceptions.md R134). -/
def rangeU8 (v : Int) : Except Failure Byte :=
  if v < 0 ∨ 255 < v then .error .rangeValue else .ok (BitVec.ofInt 8 v)

end Sys2Proof.Machine
end

