-- ==== Sys2Proof/Machine/Crc16Modbus.lean ====
section
/-! DEFINITION. CRC16Modbus: the bit step, the byte step and `CHECKSUM` (41_crc16_modbus.md R90 to R97). The running register
is transient and so is an argument here, not a field of State (10_state.md R17; log 11). -/

namespace Sys2Proof.Machine

/-- `CRC_POLY` (R11, R90). -/
def crcPoly : U16 := 0xA001#16

/-- `CRC_INIT` (R11, R90). There is no final XOR. -/
def crcInit : U16 := 0xFFFF#16

/-- The bit step: the low bit is tested before the shift, which is logical (R91). -/
def crcBit (c : U16) : U16 :=
  if c.getLsbD 0 then (c >>> 1) ^^^ crcPoly else c >>> 1

/-- The bit step, so many times. -/
def crcBits : Nat → U16 → U16
  | 0, c => c
  | n + 1, c => crcBits n (crcBit c)

/-- The byte step: XOR the byte into the low byte of the register, then eight bit steps (R92). -/
def crcByte (c : U16) (b : Byte) : U16 :=
  crcBits 8 (c ^^^ b.setWidth 16)

/-- The byte steps of a byte sequence in increasing offset, from a given register value (R93, R95). -/
def crcFrom (c : U16) (buf : Bytes) : U16 :=
  buf.foldl crcByte c

/-- `checksum` (R93): total, and a function of the bytes alone (R96). -/
def checksum (buf : Bytes) : U16 :=
  crcFrom crcInit buf

/-- `CHECKSUM buf` (R93): reads no register, writes no state, always `OK` (R96, R126). -/
def execChecksum (buf : Bytes) (s : State) : StepOutcome :=
  .next (s.finish (.ok (.u16 (checksum buf))))

end Sys2Proof.Machine
end

