-- ==== Sys2Proof/Machine/ScalarCoercion.lean ====
section
/-! DEFINITION. ScalarCoercion: `TO_U8` and `TO_PAYLOAD` (40_scalar_coercion.md R76 to R89). The two read text differently, and
both readings are the spec's (R80, R89). -/

namespace Sys2Proof.Machine

/-- The text branch of `TO_U8` (R76), with the hexadecimal heuristic of R80: an unprefixed text of hex digits is hexadecimal. -/
def textNumberU8 (t : Text) : Except Failure Byte :=
  let u := trim t
  let parsed :=
    if has0xPrefix u then parseHex (u.drop 2)
    else if u.all isHexDigit then parseHex u
    else parseDec u
  match parsed with
  | .ok v => rangeU8 v
  | .error f => .error f

/-- `to_u8` (R77 to R82). -/
def toU8 (value : Val) : Except Failure Byte :=
  match value with
  | .int n => rangeU8 n
  | .bytes [b0] => .ok b0
  | .bytes b => textNumberU8 (bytesAsText b)
  | .text t => textNumberU8 t
  | .none => .error .typeError
  | .other => .error .typeError

/-- `int_payload`: a scalar is two bytes, big-endian (R83, R87). -/
def intPayload (v : Int) : Except Failure Bytes :=
  match rangeU8 v with
  | .ok b => .ok [0x00#8, b]
  | .error f => .error f

/-- The text branch of `TO_PAYLOAD` (R86): no hexadecimal heuristic. -/
def textPayload (t : Text) : Except Failure Bytes :=
  let u := trim t
  if u = [] then .ok []
  else
    match (if has0xPrefix u then parseHex (u.drop 2) else parseDec u) with
    | .ok v => intPayload v
    | .error f => .error f

/-- `to_payload` (R83 to R88). -/
def toPayload (value : Val) : Except Failure Bytes :=
  match value with
  | .none => .ok []
  | .bytes [b0] => .ok [0x00#8, b0]
  | .bytes b => .ok b
  | .text t => textPayload t
  | .int n => intPayload n
  | .other => .error .typeError

/-- `TO_U8 value` (R77): reads no register, writes no state. -/
def execToU8 (value : Val) (s : State) : StepOutcome :=
  .next (s.finish ((toU8 value).map Result.u8))

/-- `TO_PAYLOAD value` (R83): reads no register, writes no state. -/
def execToPayload (value : Val) (s : State) : StepOutcome :=
  .next (s.finish ((toPayload value).map Result.bytes))

end Sys2Proof.Machine
end

