-- ==== Sys2Proof/Machine/FrameBuilder.lean ====
section
/-! DEFINITION. FrameBuilder: `BUILD` (42_frame_builder.md R100 to R109), and the length limits of a frame (00_scope.md R11). -/

namespace Sys2Proof.Machine

/-- `LEN_MIN` (R11, R45). -/
abbrev lenMin : Nat := 2

/-- `LEN_MAX` (R11, R45); the largest payload is two bytes less, 253 (R103, 90_conflicts.md C1). -/
abbrev lenMax : Nat := 255

/-- The checksum as the last two bytes of a frame: low byte, then high byte (R31, R48, R106). -/
def crcBytes (c : U16) : Bytes :=
  [lowByte c, highByte c]

/-- Steps 4 to 6 of `build`: the header `[STX, length, a, c] ++ p`, the checksum of everything after `STX`, appended low byte
first (R104, R105, R106). -/
def assembleFrame (stx a m : Byte) (p : Bytes) : Bytes :=
  let header := [stx, BitVec.ofNat 8 (2 + p.length), a, m] ++ p
  header ++ crcBytes (checksum (header.drop 1))

/-- `build` (R100): the failures in the order of R128, the sum `2 + len(p)` exact (R103). -/
def build (stx : Byte) (addr cmd data : Val) : Except Failure Bytes :=
  match toU8 addr with
  | .error f => .error f
  | .ok a =>
    match toU8 cmd with
    | .error f => .error f
    | .ok m =>
      match toPayload data with
      | .error f => .error f
      | .ok p =>
        if 2 + p.length < lenMin ∨ lenMax < 2 + p.length then .error .rangeFrameTooLarge
        else .ok (assembleFrame stx a m p)

/-- `BUILD addr, cmd, data` (R100): reads the `STX` register, writes no state (R107). The block sends nothing (R108). -/
def execBuild (addr cmd data : Val) (s : State) : StepOutcome :=
  .next (s.finish ((build s.readStx addr cmd data).map Result.bytes))

end Sys2Proof.Machine
end

