-- ==== Sys2Proof/Machine/FrameValidator.lean ====
section
/-! DEFINITION. FrameValidator: `PARSE` (43_frame_validator.md R110 to R121). -/

namespace Sys2Proof.Machine

/-- `FRAME_MIN`: the smallest frame (R11, R46, R111). -/
abbrev frameMin : Nat := 6

/-- `parse` (R110): the checks in the order of R129. Bytes after the frame are not looked at (R117), and nothing is searched
or remembered (R118). -/
def parse (stx : Byte) (buf : Bytes) : Except Failure Result :=
  if buf.length < frameMin then .error .formatTooShort
  else if byteAt buf 0 ≠ stx then .error .formatBadStx
  else
    let len := (byteAt buf 1).toNat
    if len < lenMin then .error .formatBadLen
    else if buf.length < 4 + len then .error .formatTruncated
    else
      let crc := checksum (slice buf 1 (2 + len))
      if byteAt buf (2 + len) ≠ lowByte crc ∨ byteAt buf (3 + len) ≠ highByte crc then .error .checksumError
      else .ok (.parsed (byteAt buf 2) (byteAt buf 3) (slice buf 4 (2 + len)))

/-- `PARSE buf` (R110): reads the `STX` register, writes no state. -/
def execParse (buf : Bytes) (s : State) : StepOutcome :=
  .next (s.finish (parse s.readStx buf))

end Sys2Proof.Machine
end

