-- ==== Sys2Proof/Machine/Dispatch.lean ====
section
/-! DEFINITION. One arm per instruction (30_encoding.md R53). -/

namespace Sys2Proof.Machine

/-- Carries out one operation whole (00_scope.md R14, 30_encoding.md R52). -/
def exec (i : Instr) (s : State) : Host.Outcome State Fault Refusal :=
  match i with
  | .toU8 value => Sys2Proof.Machine.execToU8 value s
  | .toPayload value => Sys2Proof.Machine.execToPayload value s
  | .checksum buf => Sys2Proof.Machine.execChecksum buf s
  | .build addr cmd data => Sys2Proof.Machine.execBuild addr cmd data s
  | .parse buf => Sys2Proof.Machine.execParse buf s

end Sys2Proof.Machine
end

