-- ==== Sys2Proof/Machine/Transaction.lean ====
section
/-! DEFINITION. One transaction: a request's bytes decoded and carried out, or answered with an interface status
(30_encoding.md R52, R61, R62), and what the block does at each thing the host can do. -/

namespace Sys2Proof.Machine

/-- The transaction of one request (R52, R127). -/
def transact (request : Bytes) (s : State) : StepOutcome :=
  match decode request with
  | .ok i => exec i s
  | .error e => .next (s.raise (decodeFailure e))

/-- What the block does at one host action. A reset during a transaction abandons it without a response and leaves the block
reset (R139; log 9). -/
def hostStep (a : HostAction) (s : State) : StepOutcome :=
  match a with
  | .present request => transact request s
  | .presentUnstable _ => .refused .operandChanged
  | .presentOverlapping _ => .refused .buffersOverlap
  | .reset stxInit => .next (s.resetTo stxInit)
  | .resetDuring _ stxInit => .next (s.resetTo stxInit)

/-- The next thing that happens: the host's oldest action, taken off its list; when there is none the block waits unchanged
(log 3). -/
def nextStep (s : State) : StepOutcome :=
  match s.host with
  | [] => .next s
  | a :: later => hostStep a { s with host := later }

/-- The host presents this request before anything else it was about to do (log 4). -/
def presentFirst (request : Bytes) (s : State) : State :=
  { s with host := .present request :: s.host }

end Sys2Proof.Machine
end

