-- ==== Sys2Proof/Machine/Step.lean ====
section
/-! DEFINITION. One step of the machine: one atomic transaction or reset (20_memory.md R40, 30_encoding.md R52). -/

namespace Sys2Proof.Machine

/-- One step. -/
def step (s : State) : Host.Outcome State Fault Refusal :=
  nextStep s

/-- `s` with the request of an operation table word as the next thing the host presents, so that the very next step carries
it out (log 4, log 14). -/
def State.withFetchWord (s : State) (nbits w : Nat) : State :=
  presentFirst (tableRequest nbits w) s

end Sys2Proof.Machine
end

