-- ==== Sys2Proof/Machine/Assembler.lean ====
section
/-! DEFINITION. The line syntax of requests and responses, 30_encoding.md R65: a line of text to the instruction it writes, and
an instruction or a response to its line. No step uses it (R65 is how the spec writes its vectors); what R65 leaves open is
in log 19. -/

namespace Sys2Proof.Machine

/-- The character codes of a string of ASCII characters (R13, R65). -/
def ascii (s : String) : Text :=
  s.toList.map (fun c => BitVec.ofNat 8 c.toNat)

/-! ### From a line to an instruction -/

/-- What follows a given beginning, or nothing when the text does not begin so. -/
def afterPrefix : Text → Text → Option Text
  | [], t => some t
  | _ :: _, [] => none
  | p :: ps, c :: t => if p = c then afterPrefix ps t else none

/-- Without the spaces in front. -/
def skipSpaces (t : Text) : Text :=
  t.dropWhile (· == 0x20#8)

/-- Up to the next space or comma, and the rest. -/
def splitToken (t : Text) : Text × Text :=
  (t.takeWhile (fun c => c != 0x20#8 && c != 0x2C#8), t.dropWhile (fun c => c != 0x20#8 && c != 0x2C#8))

/-- One or more digits as a number. -/
def asmDigits (value : Byte → Option Nat) (base : Nat) (t : Text) : Option Nat :=
  match t with
  | [] => none
  | _ :: _ =>
    match digits value t with
    | some ds => some (numeral base ds)
    | none => none

/-- An unsigned `<integer>`: decimal, or hexadecimal after `0x` (R65). -/
def asmUnsigned (t : Text) : Option Nat :=
  match afterPrefix (ascii "0x") t with
  | some h => asmDigits hexValue 16 h
  | none => asmDigits decValue 10 t

/-- `<integer>`: an unsigned one with an optional leading `-` (R65). -/
def asmInteger (t : Text) : Option Int :=
  match afterPrefix (ascii "-") t with
  | some u =>
    match asmUnsigned u with
    | some n => some (-(n : Int))
    | none => none
  | none =>
    match asmUnsigned t with
    | some n => some (n : Int)
    | none => none

/-- A `<buf>` after its opening bracket: bytes of two hex digits each, spaces between them, up to the closing bracket (R65). -/
def asmBufBody : Text → Option (Bytes × Text)
  | [] => none
  | [c] => if c = 0x5D#8 then some ([], []) else none
  | c :: c' :: rest =>
    if c = 0x5D#8 then some ([], c' :: rest)
    else if c = 0x20#8 then asmBufBody (c' :: rest)
    else
      match hexValue c, hexValue c', asmBufBody rest with
      | some h, some l, some (b, after) => some (BitVec.ofNat 8 (16 * h + l) :: b, after)
      | _, _, _ => none

/-- A `<buf>` (R65). -/
def asmBuf (t : Text) : Option (Bytes × Text) :=
  match afterPrefix (ascii "[") t with
  | some body => asmBufBody body
  | none => none

/-- The characters of a text after its opening quote, up to the closing one; each printable ASCII character stands for its code,
and a backslash begins one of the four escapes (R65). DESIGN CHOICE (log 19), which R65 leaves open: a backslash that begins none
of the four makes the line no request (it does not stand for its own code), and so does a code that is not printable; the first
quote that is no part of an escape closes the text. -/
def asmTextBody : Text → Option (Text × Text)
  | [] => none
  | [c] => if c = 0x22#8 then some ([], []) else none
  | c :: e :: rest =>
    if c = 0x22#8 then some ([], e :: rest)
    else if c = 0x5C#8 then
      if e = 0x78#8 then
        match rest with
        | h :: l :: after =>
          match hexValue h, hexValue l, asmTextBody after with
          | some hv, some lv, some (t, tail) => some (BitVec.ofNat 8 (16 * hv + lv) :: t, tail)
          | _, _, _ => none
        | _ => none
      else
        match asmTextBody rest with
        | some (t, tail) =>
          if e = 0x74#8 then some (0x09#8 :: t, tail)
          else if e = 0x6E#8 then some (0x0A#8 :: t, tail)
          else if e = 0x72#8 then some (0x0D#8 :: t, tail)
          else none
        | none => none
    else if 0x20 ≤ c.toNat ∧ c.toNat ≤ 0x7E then
      match asmTextBody (e :: rest) with
      | some (t, tail) => some (c :: t, tail)
      | none => none
    else none

/-- A `<val>` and what follows it (R65). -/
def asmVal (t : Text) : Option (Val × Text) :=
  match afterPrefix (ascii "none") t with
  | some after => some (.none, after)
  | none =>
  match afterPrefix (ascii "other") t with
  | some after => some (.other, after)
  | none =>
  match afterPrefix (ascii "int:") t with
  | some after =>
    match asmInteger (splitToken after).1 with
    | some n => some (.int n, (splitToken after).2)
    | none => none
  | none =>
  match afterPrefix (ascii "bytes:") t with
  | some after =>
    match asmBuf after with
    | some (b, tail) => some (.bytes b, tail)
    | none => none
  | none =>
  match afterPrefix (ascii "text:") t with
  | some after =>
    match afterPrefix [0x22#8] after with
    | some body =>
      match asmTextBody body with
      | some (b, tail) => some (.text b, tail)
      | none => none
    | none => none
  | none => none

/-- The whole rest of a line as one `<val>`. -/
def asmOnlyVal (make : Val → Instr) (t : Text) : Option Instr :=
  match asmVal (skipSpaces t) with
  | some (v, tail) => if skipSpaces tail = [] then some (make v) else none
  | none => none

/-- The whole rest of a line as one `<buf>`. -/
def asmOnlyBuf (make : Bytes → Instr) (t : Text) : Option Instr :=
  match asmBuf (skipSpaces t) with
  | some (b, tail) => if skipSpaces tail = [] then some (make b) else none
  | none => none

/-- A `<val>` with the comma after it. -/
def asmValComma (t : Text) : Option (Val × Text) :=
  match asmVal (skipSpaces t) with
  | some (v, tail) =>
    match afterPrefix (ascii ",") (skipSpaces tail) with
    | some after => some (v, after)
    | none => none
  | none => none

/-- The instruction a request line writes, if it is one (R65); the response after `->` is no part of that line (log 19). -/
def assemble (line : Text) : Option Instr :=
  match afterPrefix (ascii "TO_U8 ") line with
  | some rest => asmOnlyVal .toU8 rest
  | none =>
  match afterPrefix (ascii "TO_PAYLOAD ") line with
  | some rest => asmOnlyVal .toPayload rest
  | none =>
  match afterPrefix (ascii "CHECKSUM ") line with
  | some rest => asmOnlyBuf .checksum rest
  | none =>
  match afterPrefix (ascii "PARSE ") line with
  | some rest => asmOnlyBuf .parse rest
  | none =>
  match afterPrefix (ascii "BUILD ") line with
  | some rest =>
    match asmValComma rest with
    | some (a, rest1) =>
      match asmValComma rest1 with
      | some (m, rest2) => asmOnlyVal (.build a m) rest2
      | none => none
    | none => none
  | none => none

/-! ### From an instruction or a response to a line -/

/-- The upper-case hex digit of a value below 16 (R65). -/
def hexChar (d : Nat) : Byte :=
  if d < 10 then BitVec.ofNat 8 (0x30 + d) else BitVec.ofNat 8 (0x41 + (d - 10))

/-- `HH` (R65). -/
def byteText (b : Byte) : Text :=
  [hexChar (b.toNat / 16), hexChar (b.toNat % 16)]

/-- The decimal digits of a number, at most `fuel` of them. -/
def decimalText : Nat → Nat → Text
  | 0, _ => []
  | fuel + 1, n =>
    if n < 10 then [BitVec.ofNat 8 (0x30 + n)]
    else decimalText fuel (n / 10) ++ [BitVec.ofNat 8 (0x30 + n % 10)]

/-- `<integer>`, in decimal (R65). -/
def integerText (n : Int) : Text :=
  (if n < 0 then ascii "-" else []) ++ decimalText (n.natAbs.log2 + 1) n.natAbs

/-- Bytes as `HH HH ...` (R65). -/
def bytesText : Bytes → Text
  | [] => []
  | [b] => byteText b
  | b :: c :: rest => byteText b ++ ascii " " ++ bytesText (c :: rest)

/-- `<buf>` (R65). -/
def bufText (b : Bytes) : Text :=
  ascii "[" ++ bytesText b ++ ascii "]"

/-- One character inside quotes: itself where it is printable and neither quote nor backslash, else an escape (R65). -/
def quotedChar (c : Byte) : Text :=
  if c = 0x09#8 then [0x5C#8, 0x74#8]
  else if c = 0x0A#8 then [0x5C#8, 0x6E#8]
  else if c = 0x0D#8 then [0x5C#8, 0x72#8]
  else if 0x20 ≤ c.toNat ∧ c.toNat ≤ 0x7E ∧ c ≠ 0x22#8 ∧ c ≠ 0x5C#8 then [c]
  else [0x5C#8, 0x78#8] ++ byteText c

/-- `<val>` (R65). -/
def valText : Val → Text
  | .none => ascii "none"
  | .int n => ascii "int:" ++ integerText n
  | .bytes b => ascii "bytes:" ++ bufText b
  | .text t => ascii "text:" ++ [0x22#8] ++ t.flatMap quotedChar ++ [0x22#8]
  | .other => ascii "other"

/-- The line of a request (R65). -/
def instrText : Instr → Text
  | .toU8 v => ascii "TO_U8 " ++ valText v
  | .toPayload v => ascii "TO_PAYLOAD " ++ valText v
  | .checksum b => ascii "CHECKSUM " ++ bufText b
  | .build a m d => ascii "BUILD " ++ valText a ++ ascii ", " ++ valText m ++ ascii ", " ++ valText d
  | .parse b => ascii "PARSE " ++ bufText b

/-- `<STATUS_NAME>` (R60, R65). -/
def failureName : Failure → Text
  | .typeError => ascii "TYPE_ERROR"
  | .formatNumber => ascii "FORMAT_NUMBER"
  | .formatTooShort => ascii "FORMAT_TOO_SHORT"
  | .formatBadStx => ascii "FORMAT_BAD_STX"
  | .formatTruncated => ascii "FORMAT_TRUNCATED"
  | .formatBadLen => ascii "FORMAT_BAD_LEN"
  | .rangeValue => ascii "RANGE_VALUE"
  | .rangeFrameTooLarge => ascii "RANGE_FRAME_TOO_LARGE"
  | .checksumError => ascii "CHECKSUM_ERROR"
  | .illegalOp => ascii "ILLEGAL_OP"
  | .badRequest => ascii "BAD_REQUEST"

/-- `<result>` (R65). -/
def resultText : Result → Text
  | .u8 v => ascii "0x" ++ byteText v
  | .u16 c => ascii "0x" ++ byteText (highByte c) ++ byteText (lowByte c)
  | .bytes b => bufText b
  | .parsed a m p =>
    ascii "addr=0x" ++ byteText a ++ ascii " cmd=0x" ++ byteText m ++ ascii " payload=" ++ bufText p

/-- The response part of a line (R65). -/
def responseText : Response → Text
  | .ok r => ascii "-> OK " ++ resultText r
  | .fail f => ascii "-> " ++ failureName f

end Sys2Proof.Machine
end

