-- ==== Sys2Proof/Safety.lean ====
section
/-! DEFINITION. What claims about this machine are stated in: what it is for an instruction to be answered, what a legal
response is, and the spec's formats written as relations, apart from the functions that compute them (the serialisation of
requests, numerals, whitespace, frames). -/

namespace Sys2Proof.Machine

/-! ### Answers -/

/-- In state `s` the instruction `i` completes with the response `r`, and nothing else of the state changes: not `STX`, not
the host's list, not the earlier responses (30_encoding.md R52, 60_exceptions.md R131). -/
def Gives (i : Instr) (s : State) (r : Response) : Prop :=
  exec i s = .next { s with responses := s.responses ++ [r] }

/-- When the host presents the bytes `req` before whatever else it does, one step answers `r`, takes the request off the
host's list, and changes nothing else (R52, R131). -/
def Answers (req : Bytes) (s : State) (r : Response) : Prop :=
  step { s with host := .present req :: s.host } = .next { s with responses := s.responses ++ [r] }

/-- A response whose byte sequence the interface can carry: a payload or a frame has at most 65535 bytes and never exactly
one (R59, R85), a parsed payload at most 253 (R110). -/
def Response.legal : Response → Bool
  | .ok (.bytes b) => decide (b.length ≠ 1) && decide (b.length ≤ 65535)
  | .ok (.parsed _ _ p) => decide (p.length ≤ 253)
  | .ok (.u8 _) => true
  | .ok (.u16 _) => true
  | .fail _ => true

/-- The invariant of the machine: every response it has given is legal. -/
def State.inv (s : State) : Bool :=
  s.responses.all Response.legal

/-- Which failure status which operation can give (60_exceptions.md R125). -/
def mayFail : Instr → Failure → Bool
  | .toU8 _, f => f == .typeError || f == .formatNumber || f == .rangeValue
  | .toPayload _, f => f == .typeError || f == .formatNumber || f == .rangeValue
  | .checksum _, _ => false
  | .build _ _ _, f => f == .typeError || f == .formatNumber || f == .rangeValue || f == .rangeFrameTooLarge
  | .parse _, f =>
    f == .formatTooShort || f == .formatBadStx || f == .formatBadLen || f == .formatTruncated || f == .checksumError

/-! ### The serialisation of requests as a relation (R53 to R56, R63) -/

/-- The bytes of a `Val` (R55); an `INT` body is read as one 32-bit two's complement number (R56); every tag from `0x04` up is
`OTHER` (R63). -/
inductive ValBytes : Val → Bytes → Prop where
  | none : ValBytes .none [0x00#8]
  | int (b3 b2 b1 b0 : Byte) : ValBytes (.int (b3 ++ b2 ++ b1 ++ b0).toInt) [0x01#8, b3, b2, b1, b0]
  | bytes (hi lo : Byte) (b : Bytes) (len : b.length = hi.toNat * 256 + lo.toNat) :
      ValBytes (.bytes b) (0x02#8 :: hi :: lo :: b)
  | text (hi lo : Byte) (t : Text) (len : t.length = hi.toNat * 256 + lo.toNat) :
      ValBytes (.text t) (0x03#8 :: hi :: lo :: t)
  | other (tag : Byte) (reserved : 0x04 ≤ tag.toNat) : ValBytes .other [tag]

/-- The bytes of a `RawBuf` (R55). -/
inductive RawBufBytes : Bytes → Bytes → Prop where
  | mk (hi lo : Byte) (b : Bytes) (len : b.length = hi.toNat * 256 + lo.toNat) : RawBufBytes b (hi :: lo :: b)

/-- The bytes of a request (R53, R55). -/
inductive RequestBytes : Instr → Bytes → Prop where
  | toU8 {v : Val} {bs : Bytes} (h : ValBytes v bs) : RequestBytes (.toU8 v) (0x01#8 :: bs)
  | toPayload {v : Val} {bs : Bytes} (h : ValBytes v bs) : RequestBytes (.toPayload v) (0x02#8 :: bs)
  | checksum {b bs : Bytes} (h : RawBufBytes b bs) : RequestBytes (.checksum b) (0x03#8 :: bs)
  | build {a m d : Val} {as ms ds : Bytes} (ha : ValBytes a as) (hm : ValBytes m ms) (hd : ValBytes d ds) :
      RequestBytes (.build a m d) (0x04#8 :: (as ++ ms ++ ds))
  | parse {b bs : Bytes} (h : RawBufBytes b bs) : RequestBytes (.parse b) (0x05#8 :: bs)

/-! ### Texts (R70 to R74, R76, R86) -/

/-- The six whitespace codes (R71). -/
def whitespaceCodes : List Byte :=
  [0x20#8, 0x09#8, 0x0A#8, 0x0B#8, 0x0C#8, 0x0D#8]

/-- `u` is `t` without its longest prefix and its longest suffix of whitespace (R71). -/
def IsTrimOf (t u : Text) : Prop :=
  ∃ l r, t = l ++ u ++ r ∧ (∀ c ∈ l, c ∈ whitespaceCodes) ∧ (∀ c ∈ r, c ∈ whitespaceCodes) ∧
    (∀ c, u.head? = some c → c ∉ whitespaceCodes) ∧ (∀ c, u.getLast? = some c → c ∉ whitespaceCodes)

/-- The code `c` is the decimal digit of value `d` (R70). -/
def DecDigit (c : Byte) (d : Nat) : Prop :=
  d < 10 ∧ c.toNat = 0x30 + d

/-- The code `c` is the hexadecimal digit of value `d`, in either case (R70). -/
def HexDigit (c : Byte) (d : Nat) : Prop :=
  (d < 10 ∧ c.toNat = 0x30 + d) ∨ (10 ≤ d ∧ d < 16 ∧ (c.toNat = 0x41 + (d - 10) ∨ c.toNat = 0x61 + (d - 10)))

/-- The positional sum of R73 and R74: the digit at offset `i` weighs `base^(len - 1 - i)`. -/
def positional (base : Nat) : List Nat → Nat
  | [] => 0
  | d :: ds => d * base ^ ds.length + positional base ds

/-- One or more hexadecimal digits of value `n` (R73). -/
def HexNumeral (t : Text) (n : Nat) : Prop :=
  t ≠ [] ∧ ∃ ds, List.Forall₂ HexDigit t ds ∧ n = positional 16 ds

/-- One or more decimal digits of value `n` (R74). -/
def DecDigits (t : Text) (n : Nat) : Prop :=
  t ≠ [] ∧ ∃ ds, List.Forall₂ DecDigit t ds ∧ n = positional 10 ds

/-- One optional sign, then decimal digits (R74). -/
inductive DecNumeral : Text → Int → Prop where
  | plain {t : Text} {n : Nat} (h : DecDigits t n) : DecNumeral t n
  | plus {t : Text} {n : Nat} (h : DecDigits t n) : DecNumeral (0x2B#8 :: t) n
  | minus {t : Text} {n : Nat} (h : DecDigits t n) : DecNumeral (0x2D#8 :: t) (-(n : Int))

/-- The text `u` is `"0x"` or `"0X"` followed by `h` (R72). -/
def Prefixed (u h : Text) : Prop :=
  u = 0x30#8 :: 0x78#8 :: h ∨ u = 0x30#8 :: 0x58#8 :: h

/-- What `TO_U8` reads a trimmed text as (R76, R80): the digits after a prefix, or a text of hex digits only, in base 16; any
other text in base 10. -/
inductive U8Numeral : Text → Int → Prop where
  | hexPrefixed {u h : Text} {n : Nat} (p : Prefixed u h) (d : HexNumeral h n) : U8Numeral u n
  | hexBare {u : Text} {n : Nat} (d : HexNumeral u n) : U8Numeral u n
  | decimal {u : Text} {v : Int} (bare : ∀ h, ¬ Prefixed u h) (notHex : ∀ n, ¬ HexNumeral u n) (d : DecNumeral u v) :
      U8Numeral u v

/-- What `TO_PAYLOAD` reads a trimmed, non-empty text as (R86): the digits after a prefix in base 16, any other text in
base 10. -/
inductive PayloadNumeral : Text → Int → Prop where
  | hexPrefixed {u h : Text} {n : Nat} (p : Prefixed u h) (d : HexNumeral h n) : PayloadNumeral u n
  | decimal {u : Text} {v : Int} (bare : ∀ h, ¬ Prefixed u h) (d : DecNumeral u v) : PayloadNumeral u v

/-! ### Frames and bit streams -/

/-- The checksum a frame with these fields carries: over `LEN`, `ADDR`, `CMD` and the payload (30_encoding.md R47). -/
def frameChecksum (a m : Byte) (p : Bytes) : U16 :=
  checksum (BitVec.ofNat 8 (2 + p.length) :: a :: m :: p)

/-- The frame with these fields, laid out as the table of 30_encoding.md R44 says, `LEN = 2 + len(PAYLOAD)` (R45), the
checksum low byte first (R31). -/
def frameOf (stx a m : Byte) (p : Bytes) : Bytes :=
  stx :: BitVec.ofNat 8 (2 + p.length) :: a :: m ::
    (p ++ [BitVec.ofNat 8 ((frameChecksum a m p).toNat % 256), BitVec.ofNat 8 ((frameChecksum a m p).toNat / 256)])

/-- The bits of a byte sequence in the order the checksum takes them in: bytes by increasing offset, each byte from its least
significant bit (41_crc16_modbus.md R90, R93). -/
def bitStream (m : Bytes) : List Bool :=
  m.flatMap (fun b => (List.range 8).map b.getLsbD)

end Sys2Proof.Machine
end

