-- ==== Sys2Proof/Certificates/Slice0/Obligations.lean ====
section
/-! DEFINITION. The statements about this machine, for the provers. `Gives i s r` (Safety.lean) says that `exec i s` ANSWERS A
NEXT STATE: `s` with the one response `r` appended and nothing else changed. So every `Gives` below is the completion of its
instruction and its frame in one. -/

open Sys2Proof Sys2Proof.Machine

/-! ### Requests: decoding and encoding (30_encoding.md) -/

/-- Decoding the bytes of a well-formed instruction gives the instruction back, every operand at every value. -/
def Obligations.DecodeEncodeRoundTrip : Prop :=
  ∀ i : Instr, i.wellFormed Config.default = true → decode (encode i) = .ok i

/-- R55: the decoder reads an instruction from exactly the bytes the tables serialise it to. -/
def Obligations.DecodeMeetsSerialisation : Prop :=
  ∀ (i : Instr) (bs : Bytes), decode bs = .ok i ↔ RequestBytes i bs

/-- R54: what the decoder reads fits `INT_W` = 32 and `BUF_MAX` = 65535. -/
def Obligations.DecodedRequestsAreWellFormed : Prop :=
  ∀ (i : Instr) (bs : Bytes), decode bs = .ok i → i.wellFormed Config.default = true

/-- R62: bytes after a defined `OP` that are not exactly its operands, and no bytes at all, answer `BAD_REQUEST`; an unknown
`OP` answers `ILLEGAL_OP` whatever follows. -/
def Obligations.MalformedRequestsAnswerBadRequest : Prop :=
  ∀ s : State,
    (∀ (op : Byte) (rest : Bytes), 1 ≤ op.toNat → op.toNat ≤ 5 → (∀ i, ¬ RequestBytes i (op :: rest)) →
      Answers (op :: rest) s (.fail .badRequest)) ∧
    (∀ (op : Byte) (rest : Bytes), op.toNat = 0 ∨ 6 ≤ op.toNat → Answers (op :: rest) s (.fail .illegalOp)) ∧
    Answers [] s (.fail .badRequest)

/-- R61: a reserved `OP` is answered with `ILLEGAL_OP` (code `0xF0`) and no result; nothing but the response is new. -/
def Obligations.ReservedOpsAnswerIllegalOp : Prop :=
  ∀ (s : State) (op : Byte) (rest : Bytes), op.toNat = 0 ∨ 0x06 ≤ op.toNat →
    Answers (op :: rest) s (.fail .illegalOp) ∧ (Response.fail .illegalOp).serialise = [0xF0#8]

/-- A step at a presented request that decodes is `exec` of the instruction, the request taken off the host's list. -/
def Obligations.StepRunsDecodedRequest : Prop :=
  ∀ (s : State) (req : Bytes) (later : List HostAction) (i : Instr),
    s.host = .present req :: later → decode req = .ok i → step s = exec i { s with host := later }

/-- One request of each operation, its bytes as R55 and vector V52 write them out, decodes to what it stands for. -/
def Obligations.SpecRequestWordsDecode : Prop :=
  decode [0x01#8, 0x03#8, 0x00#8, 0x04#8, 0x30#8, 0x78#8, 0x31#8, 0x46#8] =
      .ok (.toU8 (.text [0x30#8, 0x78#8, 0x31#8, 0x46#8])) ∧
    decode [0x02#8, 0x02#8, 0x00#8, 0x02#8, 0x12#8, 0x34#8] = .ok (.toPayload (.bytes [0x12#8, 0x34#8])) ∧
    decode [0x03#8, 0x00#8, 0x05#8, 0x04#8, 0x01#8, 0x02#8, 0x00#8, 0x00#8] =
      .ok (.checksum [0x04#8, 0x01#8, 0x02#8, 0x00#8, 0x00#8]) ∧
    decode [0x04#8, 0x01#8, 0x00#8, 0x00#8, 0x00#8, 0x01#8, 0x01#8, 0x00#8, 0x00#8, 0x00#8, 0x02#8, 0x01#8, 0x00#8, 0x00#8,
        0x00#8, 0x00#8] = .ok (.build (.int 1) (.int 2) (.int 0)) ∧
    decode [0x05#8, 0x00#8, 0x08#8, 0xA5#8, 0x04#8, 0x01#8, 0x02#8, 0x00#8, 0x00#8, 0x75#8, 0xFC#8] =
      .ok (.parse [0xA5#8, 0x04#8, 0x01#8, 0x02#8, 0x00#8, 0x00#8, 0x75#8, 0xFC#8])

/-- R63: every tag from `0x04` up is `OTHER`, has no body, and leads to `TYPE_ERROR` in every operation that takes a `Val`
(in `BUILD` where no earlier operand fails). -/
def Obligations.ReservedTagsAreOther : Prop :=
  ∀ (s : State) (tag : Byte), 0x04 ≤ tag.toNat →
    decode [0x01#8, tag] = .ok (.toU8 .other) ∧ decode [0x02#8, tag] = .ok (.toPayload .other) ∧
    (∀ (v w : Val) (vs ws : Bytes), ValBytes v vs → ValBytes w ws →
      decode (0x04#8 :: tag :: (vs ++ ws)) = .ok (.build .other v w) ∧
      decode (0x04#8 :: (vs ++ tag :: ws)) = .ok (.build v .other w) ∧
      decode (0x04#8 :: (vs ++ ws ++ [tag])) = .ok (.build v w .other)) ∧
    Gives (.toU8 .other) s (.fail .typeError) ∧ Gives (.toPayload .other) s (.fail .typeError) ∧
    (∀ cmd data, Gives (.build .other cmd data) s (.fail .typeError)) ∧
    (∀ addr data a, Gives (.toU8 addr) s (.ok (.u8 a)) → Gives (.build addr .other data) s (.fail .typeError)) ∧
    (∀ addr cmd a m, Gives (.toU8 addr) s (.ok (.u8 a)) → Gives (.toU8 cmd) s (.ok (.u8 m)) →
      Gives (.build addr cmd .other) s (.fail .typeError))

/-- The assembler reads every request line the model writes as the instruction it was written from. The spacing and the
escapes are the model's choice where R65 leaves them open (log 19). -/
def Obligations.AssembleReadsWhatIsWritten : Prop :=
  ∀ i : Instr, assemble (instrText i) = some i

/-! ### TO_U8 (40_scalar_coercion.md) -/

/-- R78: the integer itself when it lies in 0..255, else `RANGE_VALUE`; no wrap, no truncation. -/
def Obligations.ToU8Integer : Prop :=
  ∀ (s : State) (n : Int),
    (0 ≤ n → n ≤ 255 → ∃ v : Byte, (v.toNat : Int) = n ∧ Gives (.toU8 (.int n)) s (.ok (.u8 v))) ∧
    (n < 0 ∨ 255 < n → Gives (.toU8 (.int n)) s (.fail .rangeValue))

/-- R79: a single raw byte is its own result. -/
def Obligations.ToU8SingleByte : Prop :=
  ∀ (s : State) (b0 : Byte), Gives (.toU8 (.bytes [b0])) s (.ok (.u8 b0))

/-- R81: a byte sequence of any other length is answered as the text of the same codes; the empty one gives
`FORMAT_NUMBER`. -/
def Obligations.ToU8ByteSequenceAsText : Prop :=
  ∀ s : State,
    (∀ b : Bytes, b.length ≠ 1 → ∃ r, Gives (.toU8 (.bytes b)) s r ∧ Gives (.toU8 (.text b)) s r) ∧
    Gives (.toU8 (.bytes [])) s (.fail .formatNumber)

/-- R82: `OTHER` and `NONE` give `TYPE_ERROR`. -/
def Obligations.ToU8UnsupportedShapes : Prop :=
  ∀ s : State, Gives (.toU8 .other) s (.fail .typeError) ∧ Gives (.toU8 .none) s (.fail .typeError)

/-- R76: the trimmed text is read by the grammar of `U8Numeral`; the format failure comes before the range failure. -/
def Obligations.ToU8TextNumerals : Prop :=
  ∀ (s : State) (t u : Text), IsTrimOf t u →
    (∀ v : Int, U8Numeral u v → 0 ≤ v → v ≤ 255 →
      Gives (.toU8 (.text t)) s (.ok (.u8 (BitVec.ofInt 8 v)))) ∧
    (∀ v : Int, U8Numeral u v → v < 0 ∨ 255 < v → Gives (.toU8 (.text t)) s (.fail .rangeValue)) ∧
    ((∀ v : Int, ¬ U8Numeral u v) → Gives (.toU8 (.text t)) s (.fail .formatNumber))

/-- R80: a text of hex digits only is hexadecimal even when they are all decimal digits; decimal reading is left to texts
with a sign. -/
def Obligations.BareDigitsReadAsHexadecimal : Prop :=
  ∀ (s : State) (t u : Text), IsTrimOf t u →
    (∀ n : Nat, HexNumeral u n →
      (n ≤ 255 → Gives (.toU8 (.text t)) s (.ok (.u8 (BitVec.ofNat 8 n)))) ∧
      (255 < n → Gives (.toU8 (.text t)) s (.fail .rangeValue))) ∧
    (∀ ds : List Nat, u ≠ [] → List.Forall₂ DecDigit u ds → HexNumeral u (positional 16 ds)) ∧
    (∀ (d : Text) (n : Nat), DecDigits d n →
      (u = 0x2B#8 :: d → n ≤ 255 → Gives (.toU8 (.text t)) s (.ok (.u8 (BitVec.ofNat 8 n)))) ∧
      (u = 0x2B#8 :: d → 255 < n → Gives (.toU8 (.text t)) s (.fail .rangeValue)) ∧
      (u = 0x2D#8 :: d → 0 < n → Gives (.toU8 (.text t)) s (.fail .rangeValue)) ∧
      (u = 0x2D#8 :: d → n = 0 → Gives (.toU8 (.text t)) s (.ok (.u8 0x00#8))))

/-! ### TO_PAYLOAD (40_scalar_coercion.md) -/

/-- R84: `NONE`, the empty byte sequence and blank text are the empty payload, where `TO_U8` fails. -/
def Obligations.ToPayloadEmptyCases : Prop :=
  ∀ s : State,
    Gives (.toPayload .none) s (.ok (.bytes [])) ∧
    Gives (.toPayload (.bytes [])) s (.ok (.bytes [])) ∧
    (∀ t : Text, (∀ c ∈ t, c ∈ whitespaceCodes) →
      Gives (.toPayload (.text t)) s (.ok (.bytes [])) ∧ Gives (.toU8 (.text t)) s (.fail .formatNumber)) ∧
    Gives (.toU8 .none) s (.fail .typeError)

/-- R85: one byte is promoted to two, every other byte sequence passes through unchanged. -/
def Obligations.ToPayloadByteSequences : Prop :=
  ∀ s : State,
    (∀ b0 : Byte, Gives (.toPayload (.bytes [b0])) s (.ok (.bytes [0x00#8, b0]))) ∧
    (∀ b : Bytes, b.length ≠ 1 → Gives (.toPayload (.bytes b)) s (.ok (.bytes b)))

/-- R86 (which the spec derives from R73, R74 and R87): the trimmed text is read by the grammar of `PayloadNumeral`, without
the hexadecimal heuristic, and the number treated as an integer operand. -/
def Obligations.ToPayloadTextNumerals : Prop :=
  ∀ (s : State) (t u : Text), IsTrimOf t u →
    (u = [] → Gives (.toPayload (.text t)) s (.ok (.bytes []))) ∧
    (∀ v : Int, PayloadNumeral u v → 0 ≤ v → v ≤ 255 →
      Gives (.toPayload (.text t)) s (.ok (.bytes [0x00#8, BitVec.ofInt 8 v]))) ∧
    (∀ v : Int, PayloadNumeral u v → v < 0 ∨ 255 < v → Gives (.toPayload (.text t)) s (.fail .rangeValue)) ∧
    (u ≠ [] → (∀ v : Int, ¬ PayloadNumeral u v) → Gives (.toPayload (.text t)) s (.fail .formatNumber))

/-- R87: an integer of 0..255 is the two bytes `[0x00, v]`, any other gives `RANGE_VALUE`. -/
def Obligations.ToPayloadInteger : Prop :=
  ∀ (s : State) (n : Int),
    (0 ≤ n → n ≤ 255 → ∃ v : Byte, (v.toNat : Int) = n ∧ Gives (.toPayload (.int n)) s (.ok (.bytes [0x00#8, v]))) ∧
    (n < 0 ∨ 255 < n → Gives (.toPayload (.int n)) s (.fail .rangeValue))

/-- R88: `OTHER` gives `TYPE_ERROR`, `NONE` does not. -/
def Obligations.ToPayloadUnsupportedShape : Prop :=
  ∀ s : State, Gives (.toPayload .other) s (.fail .typeError) ∧ Gives (.toPayload .none) s (.ok (.bytes []))

/-- R147, last sentence: text with an explicit prefix is read alike by `TO_U8` and `TO_PAYLOAD`: the same value, or the same
failure. -/
def Obligations.PrefixedTextReadAlike : Prop :=
  ∀ (s : State) (t u h : Text), IsTrimOf t u → Prefixed u h →
    (∃ v : Byte, Gives (.toU8 (.text t)) s (.ok (.u8 v)) ∧ Gives (.toPayload (.text t)) s (.ok (.bytes [0x00#8, v]))) ∨
    (∃ f : Failure, Gives (.toU8 (.text t)) s (.fail f) ∧ Gives (.toPayload (.text t)) s (.fail f))

/-! ### The text helpers (40_scalar_coercion.md R71 to R74) -/

/-- R71: `trim` removes the longest prefix and suffix of whitespace and nothing else; no other text does. -/
def Obligations.TrimRemovesOuterWhitespace : Prop :=
  ∀ t : Text, IsTrimOf t (trim t) ∧ ∀ u, IsTrimOf t u → u = trim t

/-- R73: `parse_hex` is the positional sum of one or more hex digits, leading zeros change nothing, everything else fails. -/
def Obligations.ParseHexIsPositionalSum : Prop :=
  (∀ (t : Text) (n : Nat), HexNumeral t n → parseHex t = .ok (n : Int)) ∧
  (∀ t : Text, (∀ n, ¬ HexNumeral t n) → parseHex t = .error .formatNumber) ∧
  (∀ (k : Nat) (t : Text) (n : Nat), HexNumeral t n → parseHex (List.replicate k 0x30#8 ++ t) = .ok (n : Int))

/-- R74: `parse_dec` is the signed positional sum of one or more decimal digits, everything else fails. -/
def Obligations.ParseDecIsSignedPositionalSum : Prop :=
  (∀ (t : Text) (v : Int), DecNumeral t v → parseDec t = .ok v) ∧
  (∀ t : Text, (∀ v, ¬ DecNumeral t v) → parseDec t = .error .formatNumber)

/-! ### CHECKSUM (41_crc16_modbus.md) -/

/-- R91: shift right by one, and XOR `0xA001` when the bit shifted out was 1; bit 15 of the result is that bit. -/
def Obligations.CrcBitStep : Prop :=
  ∀ c : U16,
    (c.toNat % 2 = 0 → crcBit c = BitVec.ofNat 16 (c.toNat / 2)) ∧
    (c.toNat % 2 = 1 → crcBit c = BitVec.ofNat 16 (c.toNat / 2) ^^^ 0xA001#16) ∧
    (crcBit c).getLsbD 15 = c.getLsbD 0

/-- R92: the byte goes into the low byte by XOR, the high byte staying, and eight bit steps follow. -/
def Obligations.CrcByteStep : Prop :=
  ∀ (c : U16) (b : Byte),
    crcByte c b = crcBit^[8] (c ^^^ BitVec.ofNat 16 b.toNat) ∧
    (c ^^^ BitVec.ofNat 16 b.toNat) >>> 8 = c >>> 8

/-- R93, R94: a request of `op` 3 with any `RawBuf` is `CHECKSUM` of its bytes, which answers the fold of the byte step from
`0xFFFF` over the bytes in increasing offset, in every state; `0xFFFF` for no bytes. -/
def Obligations.ChecksumFoldsBytes : Prop :=
  ∀ (s : State) (buf : Bytes),
    (∀ bs, RawBufBytes buf bs → decode (0x03#8 :: bs) = .ok (.checksum buf)) ∧
    Gives (.checksum buf) s (.ok (.u16 (buf.foldl crcByte 0xFFFF#16))) ∧
    Gives (.checksum []) s (.ok (.u16 0xFFFF#16))

/-- R96: `CHECKSUM` cannot fail, and its result depends on the bytes alone: one value for every state. -/
def Obligations.ChecksumIsPure : Prop :=
  ∀ buf : Bytes, ∃ c : U16, ∀ s : State, Gives (.checksum buf) s (.ok (.u16 c))

/-- The byte step is linear over XOR (which R98 says of it). -/
def Obligations.CrcByteIsLinear : Prop :=
  ∀ (c d : U16) (a b : Byte), crcByte (c ^^^ d) (a ^^^ b) = crcByte c a ^^^ crcByte d b

/-- R98 (a), which the spec derives: appending a sequence's checksum, low byte first, leaves zero. -/
def Obligations.ChecksumResidueIsZero : Prop :=
  ∀ m : Bytes,
    checksum (m ++ [BitVec.ofNat 8 ((checksum m).toNat % 256), BitVec.ofNat 8 ((checksum m).toNat / 256)]) = 0x0000#16

/-- R98 (b), which the spec derives: changing one byte changes the checksum. -/
def Obligations.OneChangedByteChangesChecksum : Prop :=
  ∀ (pre post : Bytes) (b b' : Byte), b ≠ b' → checksum (pre ++ b :: post) ≠ checksum (pre ++ b' :: post)

/-- R98 (b), which the spec derives: so does a change within 16 consecutive bits of the stream of bits. -/
def Obligations.BurstChangesChecksum : Prop :=
  ∀ (m n : Bytes) (pre w v post : List Bool),
    bitStream m = pre ++ w ++ post → bitStream n = pre ++ v ++ post → w.length = v.length → w.length ≤ 16 → w ≠ v →
      checksum m ≠ checksum n

/-! ### BUILD (42_frame_builder.md) -/

/-- R104 to R106, R100: when the operands coerce, as `TO_U8`, `TO_U8` and `TO_PAYLOAD` do, to `a`, `m` and a payload of at most
253 bytes, `BUILD` answers the frame of these, `6 + len(payload)` bytes. The second clause names operands that do: integers
of 0..255, and no data or data bytes. -/
def Obligations.BuildAssemblesFrame : Prop :=
  (∀ (s : State) (addr cmd data : Val) (a m : Byte) (p : Bytes),
    Gives (.toU8 addr) s (.ok (.u8 a)) → Gives (.toU8 cmd) s (.ok (.u8 m)) → Gives (.toPayload data) s (.ok (.bytes p)) →
    p.length ≤ 253 →
      Gives (.build addr cmd data) s (.ok (.bytes (frameOf s.stx a m p))) ∧ (frameOf s.stx a m p).length = 6 + p.length) ∧
  (∀ (s : State) (a m : Byte) (p : Bytes), p.length ≠ 1 → p.length ≤ 253 →
    Gives (.build (.int a.toNat) (.int m.toNat) (.bytes p)) s (.ok (.bytes (frameOf s.stx a m p))) ∧
    Gives (.build (.int a.toNat) (.int m.toNat) .none) s (.ok (.bytes (frameOf s.stx a m []))))

/-- R103: when the operands coerce, `BUILD` fails, with `RANGE_FRAME_TOO_LARGE`, exactly when the payload has 254 bytes or
more, which only a byte sequence can give. -/
def Obligations.BuildRefusesExactlyLongPayloads : Prop :=
  ∀ (s : State) (addr cmd data : Val) (a m : Byte) (p : Bytes),
    Gives (.toU8 addr) s (.ok (.u8 a)) → Gives (.toU8 cmd) s (.ok (.u8 m)) → Gives (.toPayload data) s (.ok (.bytes p)) →
    (p.length ≤ 253 → ∃ f, Gives (.build addr cmd data) s (.ok (.bytes f))) ∧
    (254 ≤ p.length → Gives (.build addr cmd data) s (.fail .rangeFrameTooLarge) ∧ data = .bytes p)

/-- R128: the failures of `BUILD` in the order `addr`, `cmd`, `data`, length; the first one is reported; the coercions have
three failures each, and after the length check nothing fails. -/
def Obligations.BuildFailureOrder : Prop :=
  ∀ (s : State) (addr cmd data : Val),
    (∀ f, Gives (.toU8 addr) s (.fail f) → Gives (.build addr cmd data) s (.fail f)) ∧
    (∀ a f, Gives (.toU8 addr) s (.ok (.u8 a)) → Gives (.toU8 cmd) s (.fail f) →
      Gives (.build addr cmd data) s (.fail f)) ∧
    (∀ a m f, Gives (.toU8 addr) s (.ok (.u8 a)) → Gives (.toU8 cmd) s (.ok (.u8 m)) → Gives (.toPayload data) s (.fail f) →
      Gives (.build addr cmd data) s (.fail f)) ∧
    (∀ a m p, Gives (.toU8 addr) s (.ok (.u8 a)) → Gives (.toU8 cmd) s (.ok (.u8 m)) →
      Gives (.toPayload data) s (.ok (.bytes p)) →
      (255 < 2 + p.length → Gives (.build addr cmd data) s (.fail .rangeFrameTooLarge)) ∧
      (2 + p.length ≤ 255 → ∃ f, Gives (.build addr cmd data) s (.ok (.bytes f)))) ∧
    (∀ f, Gives (.toU8 addr) s (.fail f) ∨ Gives (.toU8 cmd) s (.fail f) ∨ Gives (.toPayload data) s (.fail f) →
      f ∈ [.typeError, .formatNumber, .rangeValue])

/-- Whatever `BUILD` answers is a frame: its `LEN` byte is its length less 4, it has 6 to 259 bytes, and its payload never has
exactly one byte. -/
def Obligations.BuiltFrameShape : Prop :=
  ∀ (s : State) (addr cmd data : Val) (f : Bytes), Gives (.build addr cmd data) s (.ok (.bytes f)) →
    ∃ (a m : Byte) (p : Bytes),
      f = frameOf s.stx a m p ∧ p.length ≤ 253 ∧ p.length ≠ 1 ∧
      f[1]?.map BitVec.toNat = some (f.length - 4) ∧ 6 ≤ f.length ∧ f.length ≤ 259

/-- R105: the checksum of a built frame is that of `LEN` through the payload, without `STX`, so two senders with different
`STX` build, from the same operands, frames that differ in byte 0 only. -/
def Obligations.StxOnlyInByteZero : Prop :=
  ∀ (s t : State) (addr cmd data : Val) (f : Bytes), Gives (.build addr cmd data) s (.ok (.bytes f)) →
    ∃ (a m : Byte) (p rest : Bytes),
      f = s.stx :: rest ∧ f = frameOf s.stx a m p ∧
      Gives (.build addr cmd data) t (.ok (.bytes (t.stx :: rest))) ∧ t.stx :: rest = frameOf t.stx a m p

/-! ### PARSE (43_frame_validator.md) -/

/-- R111: fewer than 6 bytes, whatever they are. -/
def Obligations.ParseTooShort : Prop :=
  ∀ (s : State) (buf : Bytes), buf.length < 6 → Gives (.parse buf) s (.fail .formatTooShort)

/-- R112: 6 bytes or more, of which the first is not the `STX` register. -/
def Obligations.ParseBadStx : Prop :=
  ∀ (s : State) (x : Byte) (rest : Bytes), 5 ≤ rest.length → x ≠ s.stx →
    Gives (.parse (x :: rest)) s (.fail .formatBadStx)

/-- R113: the right `STX` and a `LEN` below 2. -/
def Obligations.ParseBadLen : Prop :=
  ∀ (s : State) (l : Byte) (rest : Bytes), 4 ≤ rest.length → l.toNat < 2 →
    Gives (.parse (s.stx :: l :: rest)) s (.fail .formatBadLen)

/-- R114: fewer than `LEN + 4` bytes. -/
def Obligations.ParseTruncated : Prop :=
  ∀ (s : State) (l : Byte) (rest : Bytes), 4 ≤ rest.length → 2 ≤ l.toNat → rest.length + 2 < l.toNat + 4 →
    Gives (.parse (s.stx :: l :: rest)) s (.fail .formatTruncated)

/-- R115, R116: the stored checksum, low byte first, is compared with the one recomputed over `LEN` to the end of the payload;
on a match `addr`, `cmd` and the payload are returned as they lie in the frame. -/
def Obligations.ParseChecksumAndResult : Prop :=
  ∀ (s : State) (l a m lo hi : Byte) (p tail : Bytes), p.length + 2 = l.toNat →
    ((checksum (l :: a :: m :: p)).toNat = lo.toNat + 256 * hi.toNat →
      Gives (.parse (s.stx :: l :: a :: m :: (p ++ lo :: hi :: tail))) s (.ok (.parsed a m p))) ∧
    ((checksum (l :: a :: m :: p)).toNat ≠ lo.toNat + 256 * hi.toNat →
      Gives (.parse (s.stx :: l :: a :: m :: (p ++ lo :: hi :: tail))) s (.fail .checksumError))

/-- `PARSE` accepts exactly the buffers that begin with a frame of its own `STX` with a payload of at most 253 bytes, and
answers that frame's fields. -/
def Obligations.ParseAcceptsExactlyFrames : Prop :=
  ∀ (s : State) (buf : Bytes) (a m : Byte) (p : Bytes),
    Gives (.parse buf) s (.ok (.parsed a m p)) ↔ p.length ≤ 253 ∧ ∃ tail, buf = frameOf s.stx a m p ++ tail

/-- R117: when the buffer holds `LEN + 4` bytes, further bytes make no difference. -/
def Obligations.ParseIgnoresTrailingBytes : Prop :=
  ∀ (s : State) (x l : Byte) (rest tail : Bytes), 4 ≤ rest.length → l.toNat + 4 ≤ rest.length + 2 →
    ∃ r, Gives (.parse (x :: l :: rest)) s r ∧ Gives (.parse (x :: l :: (rest ++ tail))) s r

/-- R119, which the spec derives: parsing a built frame on an instance with the same `STX` gives the coerced operands back,
for payloads of up to 253 bytes. -/
def Obligations.ParseInvertsBuild : Prop :=
  ∀ (s t : State) (addr cmd data : Val) (a m : Byte) (p : Bytes),
    Gives (.toU8 addr) s (.ok (.u8 a)) → Gives (.toU8 cmd) s (.ok (.u8 m)) → Gives (.toPayload data) s (.ok (.bytes p)) →
    p.length ≤ 253 → t.stx = s.stx →
      ∃ f, Gives (.build addr cmd data) s (.ok (.bytes f)) ∧ Gives (.parse f) t (.ok (.parsed a m p))

/-- R120, which the spec derives: what `PARSE` answers when exactly one byte of a frame is changed, by the place of the byte. -/
def Obligations.OneCorruptedByteOutcome : Prop :=
  ∀ (s : State) (a m : Byte) (p : Bytes) (i : Nat) (b : Byte),
    p.length ≤ 253 → i < 6 + p.length → (frameOf s.stx a m p)[i]? ≠ some b →
    ∃ r, Gives (.parse ((frameOf s.stx a m p).set i b)) s r ∧
      (if i = 0 then r = .fail .formatBadStx
       else if i = 1 then
         if b.toNat < 2 then r = .fail .formatBadLen
         else if 2 + p.length < b.toNat then r = .fail .formatTruncated
         else r = .fail .checksumError ∨ r = .ok (.parsed a m (p.take (b.toNat - 2)))
       else r = .fail .checksumError)

/-- R25: a frame built by one instance is accepted by another only if their `STX` are equal, and else fails with
`FORMAT_BAD_STX`. -/
def Obligations.FrameOfAnotherInstance : Prop :=
  ∀ (s t : State) (addr cmd data : Val) (f : Bytes), Gives (.build addr cmd data) s (.ok (.bytes f)) →
    (t.stx = s.stx → ∃ a m p, Gives (.parse f) t (.ok (.parsed a m p))) ∧
    (t.stx ≠ s.stx → Gives (.parse f) t (.fail .formatBadStx))

/-! ### Statuses and responses (60_exceptions.md, 30_encoding.md) -/

/-- R125, which the spec derives: an operation gives only the failures of its column, each of them on some operands in every
state, and `OK` on some. -/
def Obligations.StatusTable : Prop :=
  (∀ (i : Instr) (s : State) (f : Failure), Gives i s (.fail f) → mayFail i f = true) ∧
  (∀ (i : Instr) (s : State) (f : Failure), mayFail i f = true →
    ∃ j : Instr, j.opcode = i.opcode ∧ Gives j s (.fail f)) ∧
  (∀ (i : Instr) (s : State), ∃ (j : Instr) (r : Result), j.opcode = i.opcode ∧ Gives j s (.ok r))

/-- The status codes of R60: the table's code for each failure, each its own, none that of `OK`, the class in the high nibble,
no other value produced. -/
def Obligations.StatusCodesTellFailuresApart : Prop :=
  (∀ f : Failure, (f, f.code) ∈ [(.typeError, 0x10#8), (.formatNumber, 0x20#8), (.formatTooShort, 0x21#8),
    (.formatBadStx, 0x22#8), (.formatTruncated, 0x23#8), (.formatBadLen, 0x24#8), (.rangeValue, 0x30#8),
    (.rangeFrameTooLarge, 0x31#8), (.checksumError, 0x40#8), (.illegalOp, 0xF0#8), (.badRequest, 0xF1#8)]) ∧
  (∀ f g : Failure, f.code = g.code → f = g) ∧
  (∀ r : Response, r.status = 0x00#8 ↔ ∃ v, r = .ok v) ∧
  (∀ r : Response, r.status.toNat ∈ [0x00, 0x10, 0x20, 0x21, 0x22, 0x23, 0x24, 0x30, 0x31, 0x40, 0xF0, 0xF1]) ∧
  (∀ f : Failure, statusClass f.code = 1 ↔ f = .typeError) ∧
  (∀ f : Failure, statusClass f.code = 2 ↔
    f ∈ [.formatNumber, .formatTooShort, .formatBadStx, .formatTruncated, .formatBadLen]) ∧
  (∀ f : Failure, statusClass f.code = 3 ↔ f ∈ [.rangeValue, .rangeFrameTooLarge]) ∧
  (∀ f : Failure, statusClass f.code = 4 ↔ f = .checksumError)

/-- R59: the bytes of a response: the status byte alone on a failure, and on `OK` the body of the operation, multi-byte fields
high byte first. -/
def Obligations.ResponseSerialisation : Prop :=
  (∀ f : Failure, (Response.fail f).serialise = [f.code]) ∧
  ∀ s : State,
    (∀ v r, Gives (.toU8 v) s (.ok r) → ∃ b : Byte, r = .u8 b ∧ (Response.ok r).serialise = [0x00#8, b]) ∧
    (∀ v r, Gives (.toPayload v) s (.ok r) → ∃ p : Bytes, r = .bytes p ∧
      (p.length ≤ 65535 → ∃ hi lo : Byte, (Response.ok r).serialise = 0x00#8 :: hi :: lo :: p ∧
        p.length = 256 * hi.toNat + lo.toNat)) ∧
    (∀ b r, Gives (.checksum b) s (.ok r) → ∃ (c : U16) (hi lo : Byte), r = .u16 c ∧
      (Response.ok r).serialise = [0x00#8, hi, lo] ∧ c.toNat = 256 * hi.toNat + lo.toNat) ∧
    (∀ a m d r, Gives (.build a m d) s (.ok r) → ∃ (f : Bytes) (hi lo : Byte), r = .bytes f ∧
      (Response.ok r).serialise = 0x00#8 :: hi :: lo :: f ∧ f.length = 256 * hi.toNat + lo.toNat) ∧
    (∀ b r, Gives (.parse b) s (.ok r) → ∃ (a m : Byte) (p : Bytes) (hi lo : Byte), r = .parsed a m p ∧
      (Response.ok r).serialise = 0x00#8 :: a :: m :: hi :: lo :: p ∧ p.length = 256 * hi.toNat + lo.toNat)

/-- A host that knows which operation it asked for can tell the response from its bytes. -/
def Obligations.ResponseBytesDetermineResponse : Prop :=
  ∀ (i j : Instr) (s t : State) (r q : Response), i.opcode = j.opcode → Gives i s r → Gives j t q →
    r.serialise = q.serialise → r = q

/-! ### The machine as a whole -/

/-- Every operation completes in every state with exactly one response, and leaves `STX`, the host's list and the earlier
responses as they were (R131, R142). -/
def Obligations.TransactionsCompleteAndKeepState : Prop :=
  ∀ (i : Instr) (s : State),
    (∃ r, Gives i s r) ∧
    ∀ t, exec i s = .next t → t.stx = s.stx ∧ t.host = s.host ∧ ∃ r, t.responses = s.responses ++ [r]

/-- R40: a response depends on its own request and on `STX` only; for `TO_U8`, `TO_PAYLOAD` and `CHECKSUM` not even on
`STX`. -/
def Obligations.ResponseDependsOnRequestAndStx : Prop :=
  ∀ (i : Instr) (s t : State) (r : Response), Gives i s r →
    (s.stx = t.stx → Gives i t r) ∧
    ((∀ addr cmd data, i ≠ .build addr cmd data) → (∀ buf, i ≠ .parse buf) → Gives i t r)

/-- R139, R16: a step that changes `STX` is a reset, and the new value is the reset's. -/
def Obligations.OnlyResetChangesStx : Prop :=
  ∀ s t : State, step s = .next t → t.stx ≠ s.stx →
    ∃ later, s.host = .reset t.stx :: later ∨ ∃ req, s.host = .resetDuring req t.stx :: later

/-- A list of requests is answered one after another, each with the one response that any instance with the same `STX` gives to
it alone: nothing is carried from one transaction to the next (R40, R24, R133, R142). -/
def Obligations.RequestsAnsweredInOrder : Prop :=
  ∀ (reqs : List Bytes) (s : State) (later : List HostAction), s.host = reqs.map HostAction.present ++ later →
    ∃ rs : List Response,
      List.Forall₂ (fun req r => ∀ t : State, t.stx = s.stx → Answers req t r) reqs rs ∧
      core.run reqs.length s = .next { s with host := later, responses := s.responses ++ rs }

/-- Every step keeps every response legal: a payload or frame of at most 65535 bytes and never one, a parsed payload of at
most 253. -/
def Obligations.StepKeepsResponsesLegal : Prop :=
  ∀ s t : State, s.inv = true → step s = .next t → t.inv = true

/-- The invariant holds right after reset, whatever the parameters. That no response is listed there is the model's choice
(log 2). -/
def Obligations.ResetResponsesLegal : Prop :=
  State.reset.inv = true ∧ ∀ c : Config, (State.resetWith c).inv = true

/-- R138: reset loads `STX` from `STX_INIT`, by default `0xA5`, whatever the state before. -/
def Obligations.ResetLoadsStx : Prop :=
  State.reset.stx = 0xA5#8 ∧ (∀ c : Config, (State.resetWith c).stx = c.stxInit) ∧
  ∀ (s : State) (v : Byte) (later : List HostAction), s.host = .reset v :: later → ∃ t, step s = .next t ∧ t.stx = v

/-- R139: a reset, alone or during a transaction, gives no response, and the next request is answered at once, as any instance
with the new `STX` answers it. That an abandoned transaction is one step, and that a reset leaves the host's list and the
earlier responses, is the model's choice (log 9, log 10). -/
def Obligations.ResetsGiveNoResponse : Prop :=
  ∀ (s : State) (v : Byte) (later : List HostAction),
    (s.host = .reset v :: later ∨ ∃ req, s.host = .resetDuring req v :: later) →
    step s = .next { s with stx := v, host := later } ∧
    ∀ (next : Bytes) (more : List HostAction), later = .present next :: more →
      ∃ r, (∀ t : State, t.stx = v → Answers next t r) ∧
        core.run 2 s = .next { s with stx := v, host := more, responses := s.responses ++ [r] }

/-- R143, R144: a request whose bytes change before the answer, or whose operand and result buffers overlap, has no meaning and
is refused by name, as 93_implementation_defined.md U3 and U4 ask. -/
def Obligations.HostViolationsAreRefused : Prop :=
  ∀ (s : State) (req : Bytes) (later : List HostAction),
    (s.host = .presentUnstable req :: later → step s = .refused .operandChanged) ∧
    (s.host = .presentOverlapping req :: later → step s = .refused .buffersOverlap)
end

