-- ==== Sys2Proof/Laws/State.lean ====
section
/-! SUPPORT. One lemma per field and update of State, so that no later proof unfolds an update. -/

namespace Sys2Proof.Machine

@[simp] theorem State.readStx_eq (s : State) : s.readStx = s.stx := rfl

@[simp] theorem State.answer_stx (s : State) (r : Response) : (s.answer r).stx = s.stx := rfl
@[simp] theorem State.answer_host (s : State) (r : Response) : (s.answer r).host = s.host := rfl
@[simp] theorem State.answer_responses (s : State) (r : Response) :
    (s.answer r).responses = s.responses ++ [r] := rfl

@[simp] theorem State.raise_stx (s : State) (f : Failure) : (s.raise f).stx = s.stx := rfl
@[simp] theorem State.raise_host (s : State) (f : Failure) : (s.raise f).host = s.host := rfl
@[simp] theorem State.raise_responses (s : State) (f : Failure) :
    (s.raise f).responses = s.responses ++ [.fail f] := rfl

@[simp] theorem State.resetTo_stx (s : State) (v : Byte) : (s.resetTo v).stx = v := rfl
@[simp] theorem State.resetTo_host (s : State) (v : Byte) : (s.resetTo v).host = s.host := rfl
@[simp] theorem State.resetTo_responses (s : State) (v : Byte) : (s.resetTo v).responses = s.responses := rfl

@[simp] theorem presentFirst_stx (req : Bytes) (s : State) : (presentFirst req s).stx = s.stx := rfl
@[simp] theorem presentFirst_host (req : Bytes) (s : State) :
    (presentFirst req s).host = .present req :: s.host := rfl
@[simp] theorem presentFirst_responses (req : Bytes) (s : State) :
    (presentFirst req s).responses = s.responses := rfl

@[simp] theorem State.resetWith_stx (c : Config) : (State.resetWith c).stx = c.stxInit := rfl
@[simp] theorem State.resetWith_host (c : Config) : (State.resetWith c).host = [] := rfl
@[simp] theorem State.resetWith_responses (c : Config) : (State.resetWith c).responses = [] := rfl

/-- Two answers to one state are equal only if their responses are. -/
theorem State.answer_injective (s : State) {r q : Response} (h : s.answer r = s.answer q) : r = q := by
  have := congrArg State.responses h
  simpa using this

end Sys2Proof.Machine
end

