-- ==== Sys2Proof/Laws/Step.lean ====
section
/-! SUPPORT. What the shared operations, the meanings and a step can do, each said once. -/

namespace Sys2Proof.Machine

/-- The response an operation's outcome is answered with. -/
def responseOf : Except Failure Result → Response
  | .ok r => .ok r
  | .error f => .fail f

theorem State.finish_eq (s : State) (o : Except Failure Result) : s.finish o = s.answer (responseOf o) := by
  cases o <;> rfl

/-- The outcome each operation computes from `STX` and its operands. -/
def outcomeOf (stx : Byte) : Instr → Except Failure Result
  | .toU8 v => (toU8 v).map Result.u8
  | .toPayload v => (toPayload v).map Result.bytes
  | .checksum b => .ok (.u16 (checksum b))
  | .build a m d => (build stx a m d).map Result.bytes
  | .parse b => parse stx b

/-- Every meaning answers its outcome and does nothing else. -/
theorem exec_eq_answer (i : Instr) (s : State) : exec i s = .next (s.answer (responseOf (outcomeOf s.stx i))) := by
  cases i <;> simp only [exec, execToU8, execToPayload, execChecksum, execBuild, execParse, outcomeOf, State.finish_eq,
    State.readStx_eq]

theorem transact_of_decode_ok {req : Bytes} {i : Instr} (h : decode req = .ok i) (s : State) :
    transact req s = exec i s := by
  simp only [transact, h]

theorem transact_of_decode_error {req : Bytes} {e : DecodeError} (h : decode req = .error e) (s : State) :
    transact req s = .next (s.answer (.fail (decodeFailure e))) := by
  simp only [transact, h, State.raise]

theorem step_of_host_nil {s : State} (h : s.host = []) : step s = .next s := by
  simp only [step, nextStep, h]

theorem step_of_host_cons {s : State} {a : HostAction} {later : List HostAction} (h : s.host = a :: later) :
    step s = hostStep a { s with host := later } := by
  simp only [step, nextStep, h]

/-- The response to a request, as a function of `STX` and the bytes. -/
def responseTo (stx : Byte) (req : Bytes) : Response :=
  match decode req with
  | .ok i => responseOf (outcomeOf stx i)
  | .error e => .fail (decodeFailure e)

/-- Every transaction answers, and does nothing else. -/
theorem transact_eq_answer (req : Bytes) (s : State) : transact req s = .next (s.answer (responseTo s.stx req)) := by
  unfold responseTo
  cases h : decode req with
  | ok i => rw [transact_of_decode_ok h, exec_eq_answer]
  | error e => rw [transact_of_decode_error h]

/-- All a step that goes on can have done: waited, answered a request, or reset the block. -/
theorem step_next_cases {s t : State} (h : step s = .next t) :
    (s.host = [] ∧ t = s) ∨
    (∃ req later, s.host = .present req :: later ∧
      t = { s with host := later, responses := s.responses ++ [responseTo s.stx req] }) ∨
    (∃ v later, (s.host = .reset v :: later ∨ ∃ req, s.host = .resetDuring req v :: later) ∧
      t = { s with stx := v, host := later }) := by
  cases hs : s.host with
  | nil =>
    rw [step_of_host_nil hs] at h
    exact .inl ⟨rfl, by injection h with h; exact h.symm⟩
  | cons a later =>
    rw [step_of_host_cons hs] at h
    cases a with
    | present req =>
      rw [hostStep, transact_eq_answer] at h
      injection h with h
      exact .inr (.inl ⟨req, later, rfl, h.symm⟩)
    | presentUnstable req => exact absurd h (by simp [hostStep])
    | presentOverlapping req => exact absurd h (by simp [hostStep])
    | reset v =>
      injection h with h
      exact .inr (.inr ⟨v, later, .inl rfl, h.symm⟩)
    | resetDuring req v =>
      injection h with h
      exact .inr (.inr ⟨v, later, .inr ⟨req, rfl⟩, h.symm⟩)

/-! ### Runs -/

theorem run_zero (s : State) : core.run 0 s = .next s := rfl

/-- A run whose first step goes on is the run of the rest. -/
theorem run_succ_of_next {s t : State} (h : step s = .next t) (k : Nat) : core.run (k + 1) s = core.run k t := by
  have h' : core.step s = .next t := h
  simp only [Host.Core.run]
  rw [h']

end Sys2Proof.Machine
end

