-- ==== Sys2Proof/Laws/Answers.lean ====
section
/-! SUPPORT. What it is for an instruction or a request to be answered, in terms of the outcome it computes. -/

namespace Sys2Proof.Machine

theorem gives_iff {i : Instr} {s : State} {r : Response} : Gives i s r ↔ responseOf (outcomeOf s.stx i) = r := by
  unfold Gives
  rw [exec_eq_answer]
  constructor
  · intro h
    injection h with h
    exact State.answer_injective s h
  · rintro rfl
    rfl

theorem answers_iff {req : Bytes} {s : State} {r : Response} : Answers req s r ↔ responseTo s.stx req = r := by
  unfold Answers
  rw [step_of_host_cons rfl, hostStep, transact_eq_answer]
  constructor
  · intro h
    injection h with h
    exact State.answer_injective s h
  · rintro rfl
    rfl

end Sys2Proof.Machine
end

