-- ==== Sys2Proof/Laws/Crc.lean ====
section
/-! SUPPORT. The bit step of the checksum as a linear, reversible map of the register. -/

namespace Sys2Proof.Machine

theorem crcFrom_append (c : U16) (a b : Bytes) : crcFrom c (a ++ b) = crcFrom (crcFrom c a) b :=
  List.foldl_append ..

theorem crcBits_add (m n : Nat) (c : U16) : crcBits (m + n) c = crcBits n (crcBits m c) := by
  induction m generalizing c with
  | zero => simp [crcBits]
  | succ m ih => rw [Nat.succ_add]; exact ih _

/-- The bit step is linear over XOR. -/
theorem crcBit_xor (c d : U16) : crcBit (c ^^^ d) = crcBit c ^^^ crcBit d := by
  unfold crcBit
  rw [BitVec.getLsbD_xor]
  cases c.getLsbD 0 <;> cases d.getLsbD 0 <;> ext i hi <;> simp [crcPoly] <;> grind

theorem crcBits_xor (n : Nat) (c d : U16) : crcBits n (c ^^^ d) = crcBits n c ^^^ crcBits n d := by
  induction n generalizing c d with
  | zero => rfl
  | succ n ih => simp only [crcBits, crcBit_xor, ih]

/-- Bit 15 after the bit step is bit 0 before it: the shift brings in a zero and the constant has bit 15 set. -/
theorem crcBit_top (c : U16) : (crcBit c).getLsbD 15 = c.getLsbD 0 := by
  unfold crcBit
  cases h : c.getLsbD 0 <;> simp [crcPoly]

/-- Only zero steps to zero. -/
theorem crcBit_eq_zero {c : U16} (h : crcBit c = 0#16) : c = 0#16 := by
  have h0 : c.getLsbD 0 = false := by rw [← crcBit_top, h]; rfl
  have h1 : c >>> 1 = 0#16 := by rw [crcBit, h0] at h; exact h
  have h2 : c.toNat / 2 = 0 := by simpa [Nat.shiftRight_eq_div_pow] using congrArg BitVec.toNat h1
  have h3 : c.toNat % 2 = 0 := by
    simpa [BitVec.getLsbD, Nat.testBit_zero] using h0
  exact BitVec.eq_of_toNat_eq (by simp; omega)

theorem crcBits_eq_zero {n : Nat} {c : U16} (h : crcBits n c = 0#16) : c = 0#16 := by
  induction n generalizing c with
  | zero => exact h
  | succ n ih => exact crcBit_eq_zero (ih h)

/-- The bit steps lose nothing. -/
theorem crcBits_injective {n : Nat} {c d : U16} (h : crcBits n c = crcBits n d) : c = d := by
  have : crcBits n (c ^^^ d) = 0#16 := by rw [crcBits_xor, h, BitVec.xor_self]
  exact BitVec.xor_eq_zero_iff.mp (crcBits_eq_zero this)

end Sys2Proof.Machine
end

