-- ==== Sys2Proof/Laws/Decode.lean ====
section
/-! SUPPORT. What the pieces of the decoder and the encoder do. -/

namespace Sys2Proof

theorem be16_lt (hi lo : Byte) : be16 hi lo < 65536 := by
  have := hi.isLt
  have := lo.isLt
  simp only [be16]
  omega

/-- Every number below 65536 is its two bytes. -/
theorem be16_of_bytes {n : Nat} (h : n < 65536) : be16 (BitVec.ofNat 8 (n / 256)) (BitVec.ofNat 8 n) = n := by
  simp only [be16, BitVec.toNat_ofNat]
  omega

theorem takeExactly_eq_some {n : Nat} {bs b rest : Bytes} :
    takeExactly n bs = some (b, rest) ↔ bs = b ++ rest ∧ b.length = n := by
  unfold takeExactly
  constructor
  · intro h
    split at h
    · rename_i hn
      injection h with h
      injection h with h1 h2
      subst h1 h2
      exact ⟨(List.take_append_drop n bs).symm, by simp [hn]⟩
    · cases h
  · rintro ⟨rfl, rfl⟩
    simp

theorem decodeBuf_eq_some {bs b rest : Bytes} :
    decodeBuf bs = some (b, rest) ↔ ∃ hi lo, bs = hi :: lo :: (b ++ rest) ∧ b.length = be16 hi lo := by
  match bs with
  | [] => simp [decodeBuf]
  | [_] => simp [decodeBuf]
  | hi :: lo :: tail =>
    simp only [decodeBuf, takeExactly_eq_some]
    constructor
    · rintro ⟨rfl, h⟩
      exact ⟨hi, lo, rfl, h⟩
    · rintro ⟨_, _, h, h'⟩
      injection h with h1 h
      injection h with h2 h
      subst h1 h2
      exact ⟨h, h'⟩

theorem encodeBuf_length (b : Bytes) : (encodeBuf b).length = 2 + b.length := by
  simp [encodeBuf, be16Bytes]; omega

theorem encodeVal_length (v : Val) : (encodeVal v).length = valLength v := by
  cases v <;> simp [encodeVal, valLength, int32Bytes, encodeBuf_length] <;> omega

/-- A length field and its bytes are read back, whatever follows. -/
theorem decodeBuf_encodeBuf {b : Bytes} (h : b.length ≤ 65535) (rest : Bytes) :
    decodeBuf (encodeBuf b ++ rest) = some (b, rest) :=
  decodeBuf_eq_some.mpr ⟨_, _, rfl, (be16_of_bytes (by omega)).symm⟩

/-- The word's bytes are as many as asked for. -/
theorem wordBytes_length (n w : Nat) : (wordBytes n w).length = n := by
  induction n generalizing w with
  | zero => rfl
  | succ n ih => simp [wordBytes, ih]

end Sys2Proof
end

