-- ==== Sys2Proof/Laws/Operands.lean ====
section
/-! SUPPORT. What the text helpers and the buffer reads do, in the terms of Safety.lean. -/

namespace Sys2Proof.Machine

theorem isWhitespace_iff (c : Byte) : isWhitespace c = true ↔ c ∈ whitespaceCodes := by
  simp [isWhitespace, whitespaceCodes, or_assoc]

theorem decValue_eq_some {c : Byte} {d : Nat} : decValue c = some d ↔ DecDigit c d := by
  simp only [decValue, DecDigit]
  split <;> simp <;> omega

theorem hexValue_eq_some {c : Byte} {d : Nat} : hexValue c = some d ↔ HexDigit c d := by
  simp only [hexValue, HexDigit]
  split_ifs <;> simp <;> omega

/-- A text's digits are read one for one. -/
theorem digits_eq_some {value : Byte → Option Nat} {R : Byte → Nat → Prop}
    (h : ∀ c d, value c = some d ↔ R c d) {t : Text} {ds : List Nat} :
    digits value t = some ds ↔ List.Forall₂ R t ds := by
  induction t generalizing ds with
  | nil => cases ds <;> simp [digits]
  | cons c t ih =>
    cases hc : value c with
    | none =>
      have no : ∀ d, ¬ R c d := fun d hd => by simp [(h c d).mpr hd] at hc
      cases ds <;> simp [digits, hc, no]
    | some d =>
      cases ht : digits value t with
      | none =>
        have no : ∀ ds, ¬ List.Forall₂ R t ds := fun ds hds => by simp [ih.mpr hds] at ht
        cases ds <;> simp [digits, hc, ht, no]
      | some es =>
        have one : ∀ e, R c e ↔ d = e := fun e => by rw [← h, hc]; simp
        cases ds <;> simp [digits, hc, ht, one, ← ih]

theorem foldl_numeral (base : Nat) (ds : List Nat) (acc : Nat) :
    ds.foldl (fun acc d => acc * base + d) acc = acc * base ^ ds.length + positional base ds := by
  induction ds generalizing acc with
  | nil => simp [positional]
  | cons d ds ih => rw [List.foldl_cons, ih]; simp [positional, pow_succ]; ring

/-- The running sum is the positional sum. -/
theorem numeral_eq_positional (base : Nat) (ds : List Nat) : numeral base ds = positional base ds :=
  (foldl_numeral base ds 0).trans (by simp)

theorem parseDigits_nil (value : Byte → Option Nat) (base : Nat) :
    parseDigits value base [] = .error .formatNumber := rfl

theorem parseDigits_of_some {value : Byte → Option Nat} {base : Nat} {t : Text} {ds : List Nat}
    (ht : t ≠ []) (h : digits value t = some ds) : parseDigits value base t = .ok (positional base ds : Nat) := by
  cases t with
  | nil => exact absurd rfl ht
  | cons c t => simp [parseDigits, h, numeral_eq_positional]

theorem parseDigits_of_none {value : Byte → Option Nat} {base : Nat} {t : Text}
    (h : digits value t = none) : parseDigits value base t = .error .formatNumber := by
  cases t with
  | nil => rfl
  | cons c t => simp [parseDigits, h]

/-- In range, the number itself; out of range, `RANGE_VALUE`. -/
theorem rangeU8_of_mem {v : Int} (h0 : 0 ≤ v) (h1 : v ≤ 255) : rangeU8 v = .ok (BitVec.ofInt 8 v) := by
  simp only [rangeU8]
  rw [if_neg (by omega)]

theorem rangeU8_of_not_mem {v : Int} (h : v < 0 ∨ 255 < v) : rangeU8 v = .error .rangeValue := by
  simp only [rangeU8]
  rw [if_pos h]

theorem has0xPrefix_iff (u : Text) : has0xPrefix u = true ↔ Prefixed u (u.drop 2) := by
  match u with
  | [] => simp [has0xPrefix, Prefixed]
  | [_] => simp [has0xPrefix, Prefixed]
  | c0 :: c1 :: rest => simp [has0xPrefix, Prefixed, and_or_left]

@[simp] theorem byteAt_cons_zero (x : Byte) (b : Bytes) : byteAt (x :: b) 0 = x := by simp [byteAt]

@[simp] theorem byteAt_cons_succ (x : Byte) (b : Bytes) (i : Nat) : byteAt (x :: b) (i + 1) = byteAt b i := by
  simp [byteAt]

/-- Reading at the end of a beginning reads the first byte of the rest. -/
theorem byteAt_append_length (b : Bytes) (x : Byte) (rest : Bytes) : byteAt (b ++ x :: rest) b.length = x := by
  simp [byteAt]

/-- A slice inside a beginning does not see the rest. -/
theorem slice_append {b tail : Bytes} {i j : Nat} (h : j ≤ b.length) : slice (b ++ tail) i j = slice b i j := by
  unfold slice
  by_cases hi : i ≤ b.length
  · rw [List.drop_append_of_le_length hi, List.take_append_of_le_length (by simp; omega)]
  · have : j - i = 0 := by omega
    simp [this]

theorem byteAt_append {b tail : Bytes} {i : Nat} (h : i < b.length) : byteAt (b ++ tail) i = byteAt b i := by
  simp [byteAt, List.getD, List.getElem?_append_left h]

end Sys2Proof.Machine
end

