-- ==== Sys2Proof/Laws/PerInstr.lean ====
section
/-! SUPPORT. A fact of every instruction as syntax: its bytes begin with its operation code (30_encoding.md R53, R55) and are as
many as R64 says. -/

namespace Sys2Proof.Laws.RequestShape

/-- The shape of an instruction's bytes. -/
def Statement (i : Instr) : Prop :=
  (encode i).head? = some i.opcode ∧ (encode i).length = requestLength i

theorem toU8 (value : Val) : Statement (.toU8 value) :=
  ⟨rfl, by simp [encode, encodeOperands, requestLength, encodeVal_length]; omega⟩

theorem toPayload (value : Val) : Statement (.toPayload value) :=
  ⟨rfl, by simp [encode, encodeOperands, requestLength, encodeVal_length]; omega⟩

theorem checksum (buf : Bytes) : Statement (.checksum buf) :=
  ⟨rfl, by simp [encode, encodeOperands, requestLength, encodeBuf_length]; omega⟩

theorem build (addr cmd data : Val) : Statement (.build addr cmd data) :=
  ⟨rfl, by simp [encode, encodeOperands, requestLength, encodeVal_length]; omega⟩

theorem parse (buf : Bytes) : Statement (.parse buf) :=
  ⟨rfl, by simp [encode, encodeOperands, requestLength, encodeBuf_length]; omega⟩

end Sys2Proof.Laws.RequestShape
end

