-- ==== Sys2Proof/Laws/WellFormed.lean ====
section
/-! SUPPORT. The well-formedness checks as propositions. -/

namespace Sys2Proof

theorem intFits_iff {c : Config} {n : Int} :
    intFits c n = true ↔ -(2 : Int) ^ (c.intW - 1) ≤ n ∧ n < (2 : Int) ^ (c.intW - 1) := by
  simp [intFits]

theorem bufFits_iff {c : Config} {b : Bytes} : bufFits c b = true ↔ b.length ≤ c.bufMax := by
  simp [bufFits]

/-- At this hardware's `INT_W` = 32. -/
theorem intFits_default {n : Int} : intFits Config.default n = true ↔ -2147483648 ≤ n ∧ n < 2147483648 :=
  intFits_iff.trans (by rw [show Config.default.intW = 32 from rfl]; norm_num)

/-- At this hardware's `BUF_MAX` = 65535. -/
theorem bufFits_default {b : Bytes} : bufFits Config.default b = true ↔ b.length ≤ 65535 :=
  bufFits_iff

end Sys2Proof
end

