-- ==== Sys2Proof/Tests/Slice0.lean ====
section
/-! SUPPORT. The model's own tests. The expected results are those of spec/95_test_vectors.md (the vector is named beside each
test) or worked out by hand from the rule named. Then one witness for each obligation with hypotheses. -/

set_option maxRecDepth 4000

namespace Sys2Proof.Machine

/-- A state with a given `STX`, a request still to come, and an earlier answer. -/
def stateWith (stx : Byte) : State :=
  { stx := stx, host := [.present [0x01#8]], responses := [.fail .badRequest] }

/-! ### WellFormed: one ill-formed term for each check (00_scope.md R11, 30_encoding.md R54) -/

theorem test_wf_int_limits :
    (Instr.toU8 (.int 2147483647)).wellFormed Config.default = true ∧
    (Instr.toU8 (.int (-2147483648))).wellFormed Config.default = true := by decide

theorem test_wf_int_above : (Instr.toU8 (.int 2147483648)).wellFormed Config.default = false := by decide

theorem test_wf_int_below : (Instr.toPayload (.int (-2147483649))).wellFormed Config.default = false := by decide

theorem test_wf_second_operand :
    (Instr.build (.int 1) (.int 2147483648) .none).wellFormed Config.default = false := by decide

/-- Byte sequences that are too long, in each place that checks one. -/
theorem test_wf_too_long (b : Bytes) (h : b.length = 65536) :
    (Instr.checksum b).wellFormed Config.default = false ∧ (Instr.parse b).wellFormed Config.default = false ∧
    (Instr.toU8 (.bytes b)).wellFormed Config.default = false ∧
    (Instr.build .none .none (.text b)).wellFormed Config.default = false := by
  simp [Instr.wellFormed, Val.wellFormed, bufFits, h, Config.default]

theorem test_wf_too_long_witness : (List.replicate 65536 0x00#8).length = 65536 := List.length_replicate

theorem test_wf_longest (b : Bytes) (h : b.length = 65535) : (Instr.parse b).wellFormed Config.default = true :=
  bufFits_default.mpr (by omega)

theorem test_config : Config.default.legal = true ∧ (Config.mk 0x00#8 9 65535).legal = false ∧
    (Config.mk 0x00#8 10 258).legal = false ∧ (Config.mk 0x00#8 10 259).legal = true := by decide

/-! ### Decode: one written-out word for each constructor, and what is refused -/

/-- V17.16 -/
theorem test_decode_toU8 :
    decode [0x01#8, 0x03#8, 0x00#8, 0x04#8, 0x30#8, 0x78#8, 0x31#8, 0x46#8] =
      .ok (.toU8 (.text [0x30#8, 0x78#8, 0x31#8, 0x46#8])) := by decide

/-- V18p -/
theorem test_decode_toPayload :
    decode [0x02#8, 0x01#8, 0x80#8, 0x00#8, 0x00#8, 0x00#8] = .ok (.toPayload (.int (-2147483648))) := by decide

/-- V23.7 -/
theorem test_decode_checksum : decode [0x03#8, 0x00#8, 0x02#8, 0x01#8, 0x02#8] = .ok (.checksum [0x01#8, 0x02#8]) := by decide

/-- V27.2 -/
theorem test_decode_build :
    decode [0x04#8, 0x01#8, 0x00#8, 0x00#8, 0x00#8, 0x01#8, 0x01#8, 0x00#8, 0x00#8, 0x00#8, 0x02#8, 0x00#8] =
      .ok (.build (.int 1) (.int 2) .none) := by decide

/-- The frame of V27.2 as the operand of `PARSE` (R55). -/
theorem test_decode_parse :
    decode [0x05#8, 0x00#8, 0x06#8, 0xA5#8, 0x02#8, 0x01#8, 0x02#8, 0x50#8, 0x51#8] =
      .ok (.parse [0xA5#8, 0x02#8, 0x01#8, 0x02#8, 0x50#8, 0x51#8]) := by decide

/-- `INT` is big-endian two's complement: `FF FF FF FE` is -2 (R55, R56). -/
theorem test_decode_int_sign : decode [0x01#8, 0x01#8, 0xFF#8, 0xFF#8, 0xFF#8, 0xFE#8] = .ok (.toU8 (.int (-2))) := by decide

/-- Reserved operation codes at the edges of their ranges (R61). -/
theorem test_decode_reserved :
    decode [0x00#8] = .error .illegalOp ∧ decode [0x06#8, 0x00#8] = .error .illegalOp ∧
    decode [0xFF#8] = .error .illegalOp := by decide

/-- No bytes, a missing operand, a short body, a byte too many (R62). -/
theorem test_decode_bad :
    decode [] = .error .badRequest ∧ decode [0x01#8] = .error .badRequest ∧
    decode [0x02#8, 0x01#8, 0x00#8, 0x00#8, 0x00#8] = .error .badRequest ∧
    decode [0x03#8, 0x00#8, 0x01#8, 0x41#8, 0x42#8] = .error .badRequest := by decide

/-- An `OP` alone stands for the request whose operand bytes are all zero (R64, log 14). -/
theorem test_table_words :
    decodeTableWord 8 0x01 = some (.toU8 .none) ∧ decodeTableWord 8 0x02 = some (.toPayload .none) ∧
    decodeTableWord 8 0x03 = some (.checksum []) ∧ decodeTableWord 8 0x04 = some (.build .none .none .none) ∧
    decodeTableWord 8 0x05 = some (.parse []) ∧ decodeTableWord 8 0x06 = none ∧
    decodeTableWord 24 0x010003 = some (.checksum [0x00#8]) ∧ decodeTableWord 16 0x0101 = some (.toU8 (.int 0)) := by
  decide

/-! ### TO_U8 and TO_PAYLOAD -/

/-- V17.3 and V17.21: bare digits are hexadecimal, a sign makes them decimal. -/
theorem test_toU8_text :
    Gives (.toU8 (.text (ascii "10"))) State.reset (.ok (.u8 0x10#8)) ∧
    Gives (.toU8 (.text (ascii "+10"))) State.reset (.ok (.u8 0x0A#8)) :=
  ⟨gives_iff.mpr (by decide), gives_iff.mpr (by decide)⟩

/-- V17.26, V17.29, V17.5, V17.23. -/
theorem test_toU8_more :
    Gives (.toU8 (.text (ascii "  42  "))) State.reset (.ok (.u8 0x42#8)) ∧
    Gives (.toU8 (.text (ascii "0x-5"))) State.reset (.fail .formatNumber) ∧
    Gives (.toU8 (.text (ascii "100"))) State.reset (.fail .rangeValue) ∧
    Gives (.toU8 (.text (ascii "-0"))) State.reset (.ok (.u8 0x00#8)) :=
  ⟨gives_iff.mpr (by decide), gives_iff.mpr (by decide), gives_iff.mpr (by decide), gives_iff.mpr (by decide)⟩

/-- V19.5 and V19.11: no hexadecimal heuristic. -/
theorem test_toPayload_text :
    Gives (.toPayload (.text (ascii "10"))) State.reset (.ok (.bytes [0x00#8, 0x0A#8])) ∧
    Gives (.toPayload (.text (ascii "ff"))) State.reset (.fail .formatNumber) :=
  ⟨gives_iff.mpr (by decide), gives_iff.mpr (by decide)⟩

/-- V18c, V18g, V18m. -/
theorem test_toPayload_more :
    Gives (.toPayload (.bytes [0x37#8])) State.reset (.ok (.bytes [0x00#8, 0x37#8])) ∧
    Gives (.toPayload (.bytes [0x31#8, 0x30#8])) State.reset (.ok (.bytes [0x31#8, 0x30#8])) ∧
    Gives (.toPayload (.int 256)) State.reset (.fail .rangeValue) :=
  ⟨gives_iff.mpr (by decide), gives_iff.mpr (by decide), gives_iff.mpr (by decide)⟩

/-! ### CHECKSUM -/

/-- V21: the bit step with the low bit clear and set. -/
theorem test_crc_bit : crcBit 0xFFFE#16 = 0x7FFF#16 ∧ crcBit 0x7FFF#16 = 0x9FFE#16 ∧ crcBit 0x0001#16 = 0xA001#16 := by decide

/-- V22: the byte step. -/
theorem test_crc_byte : crcByte 0xFFFF#16 0x01#8 = 0x807E#16 ∧ crcByte 0x1234#16 0x56#8 = 0xE993#16 := by decide

/-- V23.14 and V23.7, V23.8: the order of the bytes matters. -/
theorem test_checksum :
    Gives (.checksum [0x31#8, 0x32#8, 0x33#8, 0x34#8, 0x35#8, 0x36#8, 0x37#8, 0x38#8, 0x39#8]) State.reset
      (.ok (.u16 0x4B37#16)) ∧
    Gives (.checksum [0x01#8, 0x02#8]) State.reset (.ok (.u16 0xE181#16)) ∧
    Gives (.checksum [0x02#8, 0x01#8]) State.reset (.ok (.u16 0x10C1#16)) :=
  ⟨gives_iff.mpr (by decide), gives_iff.mpr (by decide), gives_iff.mpr (by decide)⟩

/-! ### BUILD and PARSE -/

/-- The frame of V27.1. -/
def frameV27 : Bytes := [0xA5#8, 0x04#8, 0x01#8, 0x02#8, 0x00#8, 0x00#8, 0x75#8, 0xFC#8]

/-- V27.1 and V27.2. -/
theorem test_build :
    Gives (.build (.int 1) (.int 2) (.int 0)) State.reset (.ok (.bytes frameV27)) ∧
    Gives (.build (.int 1) (.int 2) .none) State.reset (.ok (.bytes [0xA5#8, 0x02#8, 0x01#8, 0x02#8, 0x50#8, 0x51#8])) :=
  ⟨gives_iff.mpr (by decide), gives_iff.mpr (by decide)⟩

/-- `STX` is byte 0 and outside the checksum (R105). -/
theorem test_build_other_stx :
    Gives (.build (.int 1) (.int 2) .none) (stateWith 0x5A#8)
      (.ok (.bytes [0x5A#8, 0x02#8, 0x01#8, 0x02#8, 0x50#8, 0x51#8])) := gives_iff.mpr (by decide)

/-- The frame of V27.1 read back, and with its checksum bytes in the wrong order (V47.3). -/
theorem test_parse :
    Gives (.parse frameV27) State.reset (.ok (.parsed 0x01#8 0x02#8 [0x00#8, 0x00#8])) ∧
    Gives (.parse [0xA5#8, 0x04#8, 0x01#8, 0x02#8, 0x00#8, 0x00#8, 0xFC#8, 0x75#8]) State.reset (.fail .checksumError) :=
  ⟨gives_iff.mpr (by decide), gives_iff.mpr (by decide)⟩

/-- The order of the checks (R129): length, `STX`, `LEN` too small, truncated. -/
theorem test_parse_order :
    Gives (.parse [0x00#8, 0x00#8, 0x00#8, 0x00#8, 0x00#8]) State.reset (.fail .formatTooShort) ∧
    Gives (.parse [0x00#8, 0x00#8, 0x00#8, 0x00#8, 0x00#8, 0x00#8]) State.reset (.fail .formatBadStx) ∧
    Gives (.parse [0xA5#8, 0x01#8, 0x00#8, 0x00#8, 0x00#8, 0x00#8]) State.reset (.fail .formatBadLen) ∧
    Gives (.parse [0xA5#8, 0x03#8, 0x00#8, 0x00#8, 0x00#8, 0x00#8]) State.reset (.fail .formatTruncated) :=
  ⟨gives_iff.mpr (by decide), gives_iff.mpr (by decide), gives_iff.mpr (by decide), gives_iff.mpr (by decide)⟩

/-! ### Responses and lines -/

/-- V23.7 and V27.2 as response bytes: high byte first, the opposite of a frame. -/
theorem test_serialise :
    (Response.ok (.u16 0xE181#16)).serialise = [0x00#8, 0xE1#8, 0x81#8] ∧
    (Response.ok (.bytes [0xA5#8, 0x02#8, 0x01#8, 0x02#8, 0x50#8, 0x51#8])).serialise =
      [0x00#8, 0x00#8, 0x06#8, 0xA5#8, 0x02#8, 0x01#8, 0x02#8, 0x50#8, 0x51#8] := by decide

/-- V17.27 as a line with escapes, V23.7's line, and V23.7's response (R65). -/
theorem test_lines :
    assemble (ascii "TO_U8 text:\"\\t 0Xfe\\r\\n\"") =
      some (.toU8 (.text [0x09#8, 0x20#8, 0x30#8, 0x58#8, 0x66#8, 0x65#8, 0x0D#8, 0x0A#8])) ∧
    assemble (ascii "CHECKSUM [01 02]") = some (.checksum [0x01#8, 0x02#8]) ∧
    responseText (.ok (.u16 0xE181#16)) = ascii "-> OK 0xE181" := by decide +kernel

/-- A step answers the request the host placed, and the host's table word is the next step's (R52). -/
theorem test_step_table_word :
    step (State.reset.withFetchWord 8 0x03) = .next { State.reset with responses := [.ok (.u16 0xFFFF#16)] } := by rfl

/-! ### Witnesses: for each statement with hypotheses, values that meet them -/

theorem hexNumeral_1 {c : Byte} {d : Nat} (h : HexDigit c d) : HexNumeral [c] d :=
  ⟨by simp, [d], .cons h .nil, by simp [positional]⟩

theorem decDigits_1 {c : Byte} {d : Nat} (h : DecDigit c d) : DecDigits [c] d :=
  ⟨by simp, [d], .cons h .nil, by simp [positional]⟩

/-- `"g"` writes no number. -/
theorem no_numeral : (∀ n, ¬ HexNumeral [0x67#8] n) ∧ (∀ v, ¬ DecNumeral [0x67#8] v) ∧ (∀ v, ¬ U8Numeral [0x67#8] v) ∧
    (∀ v, ¬ PayloadNumeral [0x67#8] v) := by
  have hex : ∀ n, ¬ HexNumeral [0x67#8] n := by
    rintro n ⟨_, ds, h, _⟩
    cases h with
    | cons h _ => simp [HexDigit] at h; omega
  have dec : ∀ v, ¬ DecNumeral [0x67#8] v := by
    intro v h
    cases h with
    | plain h =>
      obtain ⟨_, ds, h, _⟩ := h
      cases h with
      | cons h _ => simp [DecDigit] at h; omega
  have bare : ∀ h, ¬ Prefixed [0x67#8] h := by simp [Prefixed]
  refine ⟨hex, dec, fun v h => ?_, fun v h => ?_⟩
  · cases h with
    | hexPrefixed p _ => exact bare _ p
    | hexBare d => exact hex _ d
    | decimal _ _ d => exact dec _ d
  · cases h with
    | hexPrefixed p _ => exact bare _ p
    | decimal _ d => exact dec _ d

/-- A text with no whitespace at its ends is its own trim. -/
theorem isTrimOf_self {u : Text} (h1 : ∀ c, u.head? = some c → c ∉ whitespaceCodes)
    (h2 : ∀ c, u.getLast? = some c → c ∉ whitespaceCodes) : IsTrimOf u u :=
  ⟨[], [], by simp, by simp, by simp, h1, h2⟩

theorem hexFF : HexNumeral [0x46#8, 0x66#8] 255 :=
  ⟨by simp, [15, 15], .cons (by simp [HexDigit]) (.cons (by simp [HexDigit]) .nil), rfl⟩

theorem hex100 : HexNumeral [0x31#8, 0x30#8, 0x30#8] 256 :=
  ⟨by simp, [1, 0, 0], .cons (by simp [HexDigit]) (.cons (by simp [HexDigit]) (.cons (by simp [HexDigit]) .nil)), rfl⟩

theorem dec255 : DecDigits [0x32#8, 0x35#8, 0x35#8] 255 :=
  ⟨by simp, [2, 5, 5], .cons (by simp [DecDigit]) (.cons (by simp [DecDigit]) (.cons (by simp [DecDigit]) .nil)), rfl⟩

theorem dec256 : DecDigits [0x32#8, 0x35#8, 0x36#8] 256 :=
  ⟨by simp, [2, 5, 6], .cons (by simp [DecDigit]) (.cons (by simp [DecDigit]) (.cons (by simp [DecDigit]) .nil)), rfl⟩

/-- `u` begins with a sign, so it is neither prefixed nor hexadecimal. -/
theorem signed_not_hex {c : Byte} {d : Text} (hc : c = 0x2B#8 ∨ c = 0x2D#8) :
    (∀ h, ¬ Prefixed (c :: d) h) ∧ ∀ n, ¬ HexNumeral (c :: d) n := by
  refine ⟨fun h p => ?_, fun n h => ?_⟩
  · rcases hc with rfl | rfl <;> simp [Prefixed] at p
  · obtain ⟨_, ds, h, _⟩ := h
    cases h with
    | cons h _ => rcases hc with rfl | rfl <;> simp [HexDigit] at h <;> omega

theorem bare_digits {c : Byte} {d : Text} (hc : c ≠ 0x30#8) : ∀ h, ¬ Prefixed (c :: d) h := by
  intro h p
  simp [Prefixed, hc] at p

/-- O1 -/
theorem witness_DecodeEncodeRoundTrip :
    (Instr.build (.int (-2147483648)) (.text [0x41#8]) (.bytes [0x00#8, 0xFF#8])).wellFormed Config.default = true := by decide

/-- O2: the serialisation relates the words of the spec to their instructions, `FF` as an `OTHER` tag among them. -/
theorem witness_DecodeMeetsSerialisation :
    RequestBytes (.checksum [0x41#8]) [0x03#8, 0x00#8, 0x01#8, 0x41#8] ∧ RequestBytes (.toU8 .other) [0x01#8, 0xFF#8] ∧
    RequestBytes (.toU8 (.int (-1))) [0x01#8, 0x01#8, 0xFF#8, 0xFF#8, 0xFF#8, 0xFF#8] :=
  ⟨.checksum (.mk 0x00#8 0x01#8 _ rfl), .toU8 (.other _ (by decide)), .toU8 (.int 0xFF#8 0xFF#8 0xFF#8 0xFF#8)⟩

/-- O3 -/
theorem witness_DecodedRequestsAreWellFormed : decode [0x01#8, 0x01#8, 0x80#8, 0x00#8, 0x00#8, 0x00#8] =
    .ok (.toU8 (.int (-2147483648))) := by decide

/-- O4: a byte too many after a whole request, at the smallest and the largest defined `OP`. -/
theorem witness_MalformedRequestsAnswerBadRequest :
    (∀ i, ¬ RequestBytes i [0x01#8, 0x00#8, 0x00#8]) ∧ (∀ i, ¬ RequestBytes i [0x05#8]) ∧
    ((0x00#8).toNat = 0 ∨ 6 ≤ (0x00#8).toNat) ∧ ((0x06#8).toNat = 0 ∨ 6 ≤ (0x06#8).toNat) := by
  refine ⟨fun i h => ?_, fun i h => ?_, by decide, by decide⟩
  · cases h with
    | toU8 h => cases h
  · cases h with
    | parse h => cases h

/-- O5: the edges of the two reserved ranges. -/
theorem witness_ReservedOpsAnswerIllegalOp :
    ((0x00#8).toNat = 0 ∨ 0x06 ≤ (0x00#8).toNat) ∧ ((0x06#8).toNat = 0 ∨ 0x06 ≤ (0x06#8).toNat) ∧
    ((0xFF#8).toNat = 0 ∨ 0x06 ≤ (0xFF#8).toNat) := by decide

/-- O6 -/
theorem witness_StepRunsDecodedRequest :
    (presentFirst [0x02#8, 0x00#8] State.reset).host = .present [0x02#8, 0x00#8] :: [] ∧
    decode [0x02#8, 0x00#8] = .ok (.toPayload .none) := ⟨rfl, by decide⟩

/-- O8 -/
theorem witness_ReservedTagsAreOther :
    0x04 ≤ (0x04#8).toNat ∧ 0x04 ≤ (0xFF#8).toNat ∧ ValBytes .none [0x00#8] ∧ ValBytes (.bytes [0x07#8]) [0x02#8, 0x00#8, 0x01#8, 0x07#8] ∧
    Gives (.toU8 (.int 1)) State.reset (.ok (.u8 0x01#8)) ∧ Gives (.toU8 (.int 255)) State.reset (.ok (.u8 0xFF#8)) :=
  ⟨by decide, by decide, .none, .bytes 0x00#8 0x01#8 _ rfl, gives_iff.mpr (by decide), gives_iff.mpr (by decide)⟩

/-- O10 and O19: both ends of the range and their neighbours, with the answers the rule gives. -/
theorem witness_Integers :
    Gives (.toU8 (.int 0)) State.reset (.ok (.u8 0x00#8)) ∧ Gives (.toU8 (.int 255)) State.reset (.ok (.u8 0xFF#8)) ∧
    Gives (.toU8 (.int (-1))) State.reset (.fail .rangeValue) ∧ Gives (.toU8 (.int 256)) State.reset (.fail .rangeValue) ∧
    Gives (.toPayload (.int 255)) State.reset (.ok (.bytes [0x00#8, 0xFF#8])) ∧
    Gives (.toPayload (.int 256)) State.reset (.fail .rangeValue) ∧
    (0 ≤ (0 : Int) ∧ (0 : Int) ≤ 255) ∧ (0 ≤ (255 : Int) ∧ (255 : Int) ≤ 255) ∧ ((-1 : Int) < 0 ∨ 255 < (-1 : Int)) ∧
    ((256 : Int) < 0 ∨ 255 < (256 : Int)) :=
  ⟨gives_iff.mpr (by decide), gives_iff.mpr (by decide), gives_iff.mpr (by decide), gives_iff.mpr (by decide),
    gives_iff.mpr (by decide), gives_iff.mpr (by decide), by decide, by decide, by decide, by decide⟩

/-- O12, O17: the lengths next to one. -/
theorem witness_ByteSequences :
    ([] : Bytes).length ≠ 1 ∧ ([0x31#8, 0x30#8] : Bytes).length ≠ 1 ∧
    Gives (.toU8 (.bytes [0x31#8, 0x30#8])) State.reset (.ok (.u8 0x10#8)) ∧
    Gives (.toPayload (.bytes [0x31#8, 0x30#8])) State.reset (.ok (.bytes [0x31#8, 0x30#8])) :=
  ⟨by decide, by decide, gives_iff.mpr (by decide), gives_iff.mpr (by decide)⟩

/-- O14: a text with whitespace and its trim; numbers 255, 256 and -1; a text that writes none. -/
theorem witness_ToU8TextNumerals :
    (IsTrimOf [0x20#8, 0x46#8, 0x66#8, 0x0A#8] [0x46#8, 0x66#8] ∧ U8Numeral [0x46#8, 0x66#8] 255) ∧
    (IsTrimOf [0x31#8, 0x30#8, 0x30#8] [0x31#8, 0x30#8, 0x30#8] ∧ U8Numeral [0x31#8, 0x30#8, 0x30#8] 256) ∧
    (IsTrimOf [0x2D#8, 0x31#8] [0x2D#8, 0x31#8] ∧ U8Numeral [0x2D#8, 0x31#8] (-1)) ∧
    (IsTrimOf [0x30#8, 0x78#8, 0x30#8] [0x30#8, 0x78#8, 0x30#8] ∧ U8Numeral [0x30#8, 0x78#8, 0x30#8] 0) ∧
    (IsTrimOf [0x67#8] [0x67#8] ∧ ∀ v, ¬ U8Numeral [0x67#8] v) := by
  refine ⟨⟨⟨[0x20#8], [0x0A#8], ?_⟩, .hexBare hexFF⟩, ⟨isTrimOf_self ?_ ?_, .hexBare hex100⟩,
    ⟨isTrimOf_self ?_ ?_, .decimal (signed_not_hex (.inr rfl)).1 (signed_not_hex (.inr rfl)).2
      (.minus (n := 1) (decDigits_1 (by simp [DecDigit])))⟩,
    ⟨isTrimOf_self ?_ ?_, .hexPrefixed (n := 0) (.inl rfl) (hexNumeral_1 (by simp [HexDigit]))⟩,
    ⟨isTrimOf_self ?_ ?_, no_numeral.2.2.1⟩⟩ <;> simp [whitespaceCodes]

/-- O15: hexadecimal 255 and 256; decimal digits read as hexadecimal; signed numbers 255, 256, -1 and -0. -/
theorem witness_BareDigitsReadAsHexadecimal :
    IsTrimOf [0x46#8, 0x66#8] [0x46#8, 0x66#8] ∧ HexNumeral [0x46#8, 0x66#8] 255 ∧
    IsTrimOf [0x31#8, 0x30#8, 0x30#8] [0x31#8, 0x30#8, 0x30#8] ∧ HexNumeral [0x31#8, 0x30#8, 0x30#8] 256 ∧
    List.Forall₂ DecDigit [0x39#8] [9] ∧
    IsTrimOf [0x2B#8, 0x32#8, 0x35#8, 0x35#8] (0x2B#8 :: [0x32#8, 0x35#8, 0x35#8]) ∧ DecDigits [0x32#8, 0x35#8, 0x35#8] 255 ∧
    IsTrimOf [0x2B#8, 0x32#8, 0x35#8, 0x36#8] (0x2B#8 :: [0x32#8, 0x35#8, 0x36#8]) ∧ DecDigits [0x32#8, 0x35#8, 0x36#8] 256 ∧
    IsTrimOf [0x2D#8, 0x31#8] (0x2D#8 :: [0x31#8]) ∧ DecDigits [0x31#8] 1 ∧
    IsTrimOf [0x2D#8, 0x30#8] (0x2D#8 :: [0x30#8]) ∧ DecDigits [0x30#8] 0 := by
  refine ⟨isTrimOf_self ?_ ?_, hexFF, isTrimOf_self ?_ ?_, hex100, .cons (by simp [DecDigit]) .nil, isTrimOf_self ?_ ?_,
    dec255, isTrimOf_self ?_ ?_, dec256, isTrimOf_self ?_ ?_, decDigits_1 (by simp [DecDigit]), isTrimOf_self ?_ ?_,
    decDigits_1 (by simp [DecDigit])⟩ <;> simp [whitespaceCodes]

/-- O16: blank texts, the empty one and one of all six codes. -/
theorem witness_ToPayloadEmptyCases :
    (∀ c ∈ ([] : Text), c ∈ whitespaceCodes) ∧
    (∀ c ∈ [0x20#8, 0x09#8, 0x0A#8, 0x0B#8, 0x0C#8, 0x0D#8], c ∈ whitespaceCodes) := by simp [whitespaceCodes]

/-- O18: blank text; 255 and 256 in decimal; -1; prefixed zero; no number. -/
theorem witness_ToPayloadTextNumerals :
    IsTrimOf [0x20#8] [] ∧
    (IsTrimOf [0x32#8, 0x35#8, 0x35#8] [0x32#8, 0x35#8, 0x35#8] ∧ PayloadNumeral [0x32#8, 0x35#8, 0x35#8] 255) ∧
    (IsTrimOf [0x32#8, 0x35#8, 0x36#8] [0x32#8, 0x35#8, 0x36#8] ∧ PayloadNumeral [0x32#8, 0x35#8, 0x36#8] 256) ∧
    (IsTrimOf [0x2D#8, 0x31#8] [0x2D#8, 0x31#8] ∧ PayloadNumeral [0x2D#8, 0x31#8] (-1)) ∧
    (IsTrimOf [0x30#8, 0x78#8, 0x30#8] [0x30#8, 0x78#8, 0x30#8] ∧ PayloadNumeral [0x30#8, 0x78#8, 0x30#8] 0) ∧
    (IsTrimOf [0x67#8] [0x67#8] ∧ [0x67#8] ≠ ([] : Text) ∧ ∀ v, ¬ PayloadNumeral [0x67#8] v) := by
  refine ⟨⟨[0x20#8], [], ?_⟩, ⟨isTrimOf_self ?_ ?_, .decimal (bare_digits (by decide)) (.plain dec255)⟩,
    ⟨isTrimOf_self ?_ ?_, .decimal (bare_digits (by decide)) (.plain dec256)⟩,
    ⟨isTrimOf_self ?_ ?_, .decimal (bare_digits (by decide)) (.minus (n := 1) (decDigits_1 (by simp [DecDigit])))⟩,
    ⟨isTrimOf_self ?_ ?_, .hexPrefixed (n := 0) (.inl rfl) (hexNumeral_1 (by simp [HexDigit]))⟩,
    ⟨isTrimOf_self ?_ ?_, by simp, no_numeral.2.2.2⟩⟩ <;> simp [whitespaceCodes]

/-- O21: a prefixed text with a value and one without, in either case of the letter. -/
theorem witness_PrefixedTextReadAlike :
    IsTrimOf [0x30#8, 0x78#8, 0x31#8] [0x30#8, 0x78#8, 0x31#8] ∧ Prefixed [0x30#8, 0x78#8, 0x31#8] [0x31#8] ∧
    IsTrimOf [0x30#8, 0x58#8] [0x30#8, 0x58#8] ∧ Prefixed [0x30#8, 0x58#8] [] := by
  refine ⟨isTrimOf_self ?_ ?_, .inl rfl, isTrimOf_self ?_ ?_, .inr rfl⟩ <;> simp [whitespaceCodes]

/-- O22 -/
theorem witness_TrimRemovesOuterWhitespace :
    IsTrimOf [0x20#8, 0x31#8, 0x20#8, 0x32#8, 0x09#8] [0x31#8, 0x20#8, 0x32#8] ∧ IsTrimOf [0x20#8] [] := by
  refine ⟨⟨[0x20#8], [0x09#8], ?_⟩, ⟨[], [0x20#8], ?_⟩⟩ <;> simp [whitespaceCodes]

/-- O23, O24: one digit, several digits, both signs, and texts that write no number. -/
theorem witness_Numerals :
    HexNumeral [0x30#8] 0 ∧ HexNumeral [0x46#8, 0x66#8] 255 ∧ (∀ n, ¬ HexNumeral [0x67#8] n) ∧ (∀ n, ¬ HexNumeral [] n) ∧
    DecNumeral [0x39#8] 9 ∧ DecNumeral [0x2B#8, 0x32#8, 0x35#8, 0x35#8] 255 ∧ DecNumeral [0x2D#8, 0x31#8] (-1) ∧
    (∀ v, ¬ DecNumeral [0x67#8] v) :=
  ⟨hexNumeral_1 (by simp [HexDigit]), hexFF, no_numeral.1, fun _ h => h.1 rfl, .plain (n := 9) (decDigits_1 (by simp [DecDigit])),
    .plus dec255, .minus (n := 1) (decDigits_1 (by simp [DecDigit])), no_numeral.2.1⟩

/-- O25 -/
theorem witness_CrcBitStep : (0xFFFE#16).toNat % 2 = 0 ∧ (0x0001#16).toNat % 2 = 1 := by decide

/-- O31 -/
theorem witness_OneChangedByteChangesChecksum : 0x00#8 ≠ 0x01#8 := by decide

/-- O32: a change of 16 bits and a change of one. -/
theorem witness_BurstChangesChecksum :
    (bitStream [0x00#8, 0x00#8] = [] ++ List.replicate 16 false ++ [] ∧
      bitStream [0x01#8, 0x80#8] = [] ++ (true :: (List.replicate 14 false ++ [true])) ++ [] ∧
      (List.replicate 16 false).length = (true :: (List.replicate 14 false ++ [true])).length ∧
      (List.replicate 16 false).length ≤ 16 ∧ List.replicate 16 false ≠ true :: (List.replicate 14 false ++ [true])) ∧
    (bitStream [0x00#8] = [] ++ [false] ++ List.replicate 7 false ∧
      bitStream [0x01#8] = [] ++ [true] ++ List.replicate 7 false) := by decide

/-- O33, O34, O35, O45: payloads at both sides of the limit. -/
theorem witness_payload_lengths (p : Bytes) (h : p.length = 253 ∨ p.length = 254) (s : State) :
    Gives (.toU8 (.int 1)) s (.ok (.u8 0x01#8)) ∧ Gives (.toPayload (.bytes p)) s (.ok (.bytes p)) := by
  refine ⟨gives_iff.mpr rfl, gives_iff.mpr ?_⟩
  match p, h with
  | _ :: _ :: _, _ => rfl

/-- O33, O45: hypotheses met together at the longest payload that fits. -/
theorem witness_BuildAssemblesFrame :
    Gives (.toU8 (.int 1)) State.reset (.ok (.u8 0x01#8)) ∧
    Gives (.toPayload (.bytes (List.replicate 253 0x00#8))) State.reset (.ok (.bytes (List.replicate 253 0x00#8))) ∧
    (List.replicate 253 0x00#8).length ≤ 253 ∧ (List.replicate 253 0x00#8).length ≠ 1 ∧
    (stateWith 0xA5#8).stx = State.reset.stx :=
  have w := witness_payload_lengths (List.replicate 253 0x00#8) (.inl List.length_replicate) State.reset
  ⟨w.1, w.2, by rw [List.length_replicate], by rw [List.length_replicate]; decide, rfl⟩

/-- O34: one byte more. -/
theorem witness_BuildRefusesExactlyLongPayloads :
    Gives (.toU8 (.int 1)) State.reset (.ok (.u8 0x01#8)) ∧
    Gives (.toPayload (.bytes (List.replicate 254 0x00#8))) State.reset (.ok (.bytes (List.replicate 254 0x00#8))) ∧
    254 ≤ (List.replicate 254 0x00#8).length :=
  have w := witness_payload_lengths (List.replicate 254 0x00#8) (.inr List.length_replicate) State.reset
  ⟨w.1, w.2, by rw [List.length_replicate]⟩

/-- O35: a failure in each place (the long payload is O34's). -/
theorem witness_BuildFailureOrder :
    Gives (.toU8 (.int 256)) State.reset (.fail .rangeValue) ∧ Gives (.toU8 .none) State.reset (.fail .typeError) ∧
    Gives (.toU8 (.int 1)) State.reset (.ok (.u8 0x01#8)) ∧ Gives (.toPayload .other) State.reset (.fail .typeError) ∧
    255 < 2 + (List.replicate 254 0x00#8).length :=
  ⟨gives_iff.mpr (by decide), gives_iff.mpr (by decide), gives_iff.mpr (by decide), gives_iff.mpr (by decide),
    by rw [List.length_replicate]; decide⟩

/-- O36, O37, O47: a frame built, on instances with equal and different `STX`. -/
theorem witness_BuiltFrame :
    Gives (.build (.int 1) (.int 2) (.int 0)) State.reset (.ok (.bytes frameV27)) ∧
    (stateWith 0xA5#8).stx = State.reset.stx ∧ (stateWith 0x5A#8).stx ≠ State.reset.stx :=
  ⟨test_build.1, rfl, by decide⟩

/-- O38: no bytes and five bytes. -/
theorem witness_ParseTooShort : ([] : Bytes).length < 6 ∧ (List.replicate 5 0xA5#8).length < 6 := by decide

/-- O39: six bytes. -/
theorem witness_ParseBadStx : 5 ≤ (List.replicate 5 0x00#8).length ∧ 0x5A#8 ≠ State.reset.stx := by decide

/-- O40: both values of `LEN` below 2. -/
theorem witness_ParseBadLen :
    4 ≤ (List.replicate 4 0x00#8).length ∧ (0x00#8).toNat < 2 ∧ (0x01#8).toNat < 2 := by decide

/-- O41: one byte short with the smallest and with the largest `LEN`. -/
theorem witness_ParseTruncated :
    (4 ≤ (List.replicate 4 0x00#8).length ∧ 2 ≤ (0x03#8).toNat ∧ (List.replicate 4 0x00#8).length + 2 < (0x03#8).toNat + 4) ∧
    (4 ≤ (List.replicate 256 0x00#8).length ∧ 2 ≤ (0xFF#8).toNat ∧
      (List.replicate 256 0x00#8).length + 2 < (0xFF#8).toNat + 4) := by
  simp only [List.length_replicate]
  decide

/-- O42: the frame of V27.2, right and with a wrong low byte. -/
theorem witness_ParseChecksumAndResult :
    ([] : Bytes).length + 2 = (0x02#8).toNat ∧
    (checksum (0x02#8 :: 0x01#8 :: 0x02#8 :: [])).toNat = (0x50#8).toNat + 256 * (0x51#8).toNat ∧
    (checksum (0x02#8 :: 0x01#8 :: 0x02#8 :: [])).toNat ≠ (0x51#8).toNat + 256 * (0x51#8).toNat := by decide

/-- O43: a frame with bytes after it. -/
theorem witness_ParseAcceptsExactlyFrames :
    frameV27 ++ [0x00#8] = frameOf State.reset.stx 0x01#8 0x02#8 [0x00#8, 0x00#8] ++ [0x00#8] ∧
    Gives (.parse (frameV27 ++ [0x00#8])) State.reset (.ok (.parsed 0x01#8 0x02#8 [0x00#8, 0x00#8])) :=
  ⟨by decide, gives_iff.mpr (by decide)⟩

/-- O44: just as many bytes as `LEN` says. -/
theorem witness_ParseIgnoresTrailingBytes :
    4 ≤ (List.replicate 6 0x00#8).length ∧ (0x04#8).toNat + 4 ≤ (List.replicate 6 0x00#8).length + 2 := by decide

/-- O46: the frame of V27.1 changed in each of the places the statement tells apart, with the answer. -/
theorem witness_OneCorruptedByteOutcome :
    ([0x00#8, 0x00#8] : Bytes).length ≤ 253 ∧ (7 < 6 + ([0x00#8, 0x00#8] : Bytes).length) ∧
    (frameOf State.reset.stx 0x01#8 0x02#8 [0x00#8, 0x00#8])[7]? ≠ some 0xFD#8 ∧
    Gives (.parse (frameV27.set 0 0xA4#8)) State.reset (.fail .formatBadStx) ∧
    Gives (.parse (frameV27.set 1 0x01#8)) State.reset (.fail .formatBadLen) ∧
    Gives (.parse (frameV27.set 1 0x05#8)) State.reset (.fail .formatTruncated) ∧
    Gives (.parse (frameV27.set 1 0x03#8)) State.reset (.fail .checksumError) ∧
    Gives (.parse (frameV27.set 2 0x00#8)) State.reset (.fail .checksumError) ∧
    Gives (.parse (frameV27.set 7 0xFD#8)) State.reset (.fail .checksumError) :=
  ⟨by decide, by decide, by decide, gives_iff.mpr (by decide), gives_iff.mpr (by decide), gives_iff.mpr (by decide),
    gives_iff.mpr (by decide), gives_iff.mpr (by decide), gives_iff.mpr (by decide)⟩

/-- O48: each failure of the table is given by some operands of its operation. -/
theorem witness_StatusTable :
    Gives (.toU8 .other) State.reset (.fail .typeError) ∧ mayFail (.toU8 .other) .typeError = true ∧
    mayFail (.checksum []) .typeError = false ∧ mayFail (.build .none .none .none) .rangeFrameTooLarge = true ∧
    mayFail (.parse []) .checksumError = true :=
  ⟨gives_iff.mpr (by decide), by decide, by decide, by decide, by decide⟩

/-- O49 -/
theorem witness_StatusCodesTellFailuresApart :
    Failure.typeError.code = Failure.typeError.code ∧ (Response.ok (.u8 0x01#8)).status = 0x00#8 := by decide

/-- O50: the shortest and the longest body. -/
theorem witness_ResponseSerialisation :
    ([] : Bytes).length ≤ 65535 ∧ (List.replicate 65535 0x00#8).length ≤ 65535 :=
  ⟨by decide, by rw [List.length_replicate]⟩

/-- O51 -/
theorem witness_ResponseBytesDetermineResponse :
    (Instr.toU8 (.int 16)).opcode = (Instr.toU8 (.text (ascii "10"))).opcode ∧
    Gives (.toU8 (.int 16)) State.reset (.ok (.u8 0x10#8)) ∧
    Gives (.toU8 (.text (ascii "10"))) (stateWith 0x00#8) (.ok (.u8 0x10#8)) :=
  ⟨by decide, gives_iff.mpr (by decide), gives_iff.mpr (by decide)⟩

/-- O52 -/
theorem witness_TransactionsCompleteAndKeepState :
    exec (.toU8 .none) State.reset = .next { State.reset with responses := [.fail .typeError] } := rfl

/-- O53: instances with equal `STX`, and an instruction that is neither `BUILD` nor `PARSE`. -/
theorem witness_ResponseDependsOnRequestAndStx :
    Gives (.checksum []) State.reset (.ok (.u16 0xFFFF#16)) ∧ State.reset.stx = (stateWith 0xA5#8).stx ∧
    (∀ addr cmd data, Instr.checksum [] ≠ .build addr cmd data) ∧ (∀ buf, Instr.checksum [] ≠ .parse buf) :=
  ⟨gives_iff.mpr (by decide), rfl, by simp, by simp⟩

/-- O54, O58: a reset that changes `STX`. -/
theorem witness_Reset :
    ({ State.reset with host := [.reset 0x5A#8] } : State).host = .reset 0x5A#8 :: [] ∧
    step { State.reset with host := [.reset 0x5A#8] } = .next { State.reset with stx := 0x5A#8 } ∧ 0x5A#8 ≠ State.reset.stx :=
  ⟨rfl, rfl, by decide⟩

/-- O55: two requests and what follows them. -/
theorem witness_RequestsAnsweredInOrder :
    ({ State.reset with host := [.present [0x03#8, 0x00#8, 0x00#8], .present [0x07#8], .reset 0x00#8] } : State).host =
      [[0x03#8, 0x00#8, 0x00#8], [0x07#8]].map HostAction.present ++ [.reset 0x00#8] := rfl

/-- O56: a step from a state that meets the invariant, and a state that does not. -/
theorem witness_StepKeepsResponsesLegal :
    (presentFirst [0x02#8, 0x00#8] State.reset).inv = true ∧
    step (presentFirst [0x02#8, 0x00#8] State.reset) = .next { State.reset with responses := [.ok (.bytes [])] } ∧
    ({ State.reset with responses := [.ok (.bytes [0x00#8])] } : State).inv = false := ⟨by decide, rfl, by decide⟩

/-- O59: a reset during a transaction, with a request after it and with none. -/
theorem witness_ResetsGiveNoResponse :
    ({ State.reset with host := [.resetDuring [0x02#8, 0x00#8] 0x5A#8, .present [0x07#8]] } : State).host =
      .resetDuring [0x02#8, 0x00#8] 0x5A#8 :: [.present [0x07#8]] ∧
    step { State.reset with host := [.resetDuring [0x02#8, 0x00#8] 0x5A#8, .present [0x07#8]] } =
      .next { stx := 0x5A#8, host := [.present [0x07#8]], responses := [] } := ⟨rfl, rfl⟩

/-- O60 -/
theorem witness_HostViolationsAreRefused :
    ({ State.reset with host := [.presentUnstable [0x02#8]] } : State).host = .presentUnstable [0x02#8] :: [] ∧
    ({ State.reset with host := [.presentOverlapping [0x02#8]] } : State).host = .presentOverlapping [0x02#8] :: [] :=
  ⟨rfl, rfl⟩

end Sys2Proof.Machine
end

/-! PROOFS. What `BUILD` and `PARSE` compute, each case said once, and R25: a frame is accepted exactly by the instances whose
`STX` is the builder's (10_state.md R25, 43_frame_validator.md R112). -/

namespace Sys2Proof.Machine

/-! ### BUILD -/

/-- The length check of step 4 (R103) in terms of the payload. -/
theorem frameTooLarge_iff (p : Bytes) : (2 + p.length < lenMin ∨ lenMax < 2 + p.length) ↔ ¬ p.length ≤ 253 := by
  simp only [lenMin, lenMax]
  omega

theorem gives_build_ok_iff {addr cmd data : Val} {s : State} {f : Bytes} :
    Gives (.build addr cmd data) s (.ok (.bytes f)) ↔ build s.stx addr cmd data = .ok f := by
  rw [gives_iff, outcomeOf]
  cases build s.stx addr cmd data <;> simp [Except.map, responseOf]

/-- `BUILD` answers a frame exactly when its operands can be coerced and the payload fits (R100, R103). -/
theorem build_eq_ok_iff {stx : Byte} {addr cmd data : Val} {f : Bytes} :
    build stx addr cmd data = .ok f ↔
      ∃ a m p, toU8 addr = .ok a ∧ toU8 cmd = .ok m ∧ toPayload data = .ok p ∧ p.length ≤ 253 ∧
        assembleFrame stx a m p = f := by
  unfold build
  cases toU8 addr with
  | error e => simp
  | ok a =>
    cases toU8 cmd with
    | error e => simp
    | ok m =>
      cases toPayload data with
      | error e => simp
      | ok p =>
        simp only [frameTooLarge_iff]
        by_cases hp : p.length ≤ 253 <;> simp [hp]

/-- A frame field by field, as the table of R44 lays it out. -/
theorem assembleFrame_eq (stx a m : Byte) (p : Bytes) :
    assembleFrame stx a m p =
      stx :: BitVec.ofNat 8 (2 + p.length) :: a :: m ::
        (p ++ lowByte (frameChecksum a m p) :: highByte (frameChecksum a m p) :: []) := by
  simp [assembleFrame, frameChecksum, crcBytes]

theorem assembleFrame_length (stx a m : Byte) (p : Bytes) : (assembleFrame stx a m p).length = 6 + p.length := by
  simp [assembleFrame_eq]
  omega

theorem byteAt_assembleFrame_zero (stx a m : Byte) (p : Bytes) : byteAt (assembleFrame stx a m p) 0 = stx := by
  rw [assembleFrame_eq, byteAt_cons_zero]

/-- The `LEN` byte of a frame holds `2 + len(p)` whole, without wrapping, when the payload fits (R45, R103). -/
theorem lenByte_toNat {p : Bytes} (h : p.length ≤ 253) : (BitVec.ofNat 8 (2 + p.length)).toNat = 2 + p.length := by
  rw [BitVec.toNat_ofNat]
  omega

/-! ### PARSE -/

theorem gives_parse_iff {buf : Bytes} {s : State} {r : Response} :
    Gives (.parse buf) s r ↔ responseOf (parse s.stx buf) = r := gives_iff

/-- R112: enough bytes, and the first is not `STX`. -/
theorem parse_of_ne_stx {stx : Byte} {buf : Bytes} (hlen : 6 ≤ buf.length) (h : byteAt buf 0 ≠ stx) :
    parse stx buf = .error .formatBadStx := by
  have : ¬ buf.length < frameMin := Nat.not_lt.mpr hlen
  simp [parse, this, h]

/-- R115, R116: a whole frame with its own `STX`, and whatever bytes after it, is judged by its checksum alone. -/
theorem parse_whole_frame (stx a m lo hi : Byte) {l : Byte} {p : Bytes} (hl : l.toNat = 2 + p.length) (tail : Bytes) :
    parse stx (stx :: l :: a :: m :: (p ++ lo :: hi :: tail)) =
      if lo ≠ lowByte (checksum (l :: a :: m :: p)) ∨ hi ≠ highByte (checksum (l :: a :: m :: p))
      then .error .checksumError else .ok (.parsed a m p) := by
  generalize hbuf : stx :: l :: a :: m :: (p ++ lo :: hi :: tail) = buf
  have hstx : byteAt buf 0 = stx := by rw [← hbuf, byteAt_cons_zero]
  have hlen : (byteAt buf 1).toNat = 2 + p.length := by simp [← hbuf, hl]
  have haddr : byteAt buf 2 = a := by simp [← hbuf]
  have hcmd : byteAt buf 3 = m := by simp [← hbuf]
  have hpay : slice buf 4 (2 + (2 + p.length)) = p := by
    rw [← hbuf, slice, show 2 + (2 + p.length) - 4 = p.length by omega]
    simp
  have hsum : slice buf 1 (2 + (2 + p.length)) = l :: a :: m :: p := by
    rw [← hbuf, slice, show 2 + (2 + p.length) - 1 = p.length + 1 + 1 + 1 by omega]
    simp
  have hlo : byteAt buf (2 + (2 + p.length)) = lo := by
    rw [← hbuf, show 2 + (2 + p.length) = p.length + 1 + 1 + 1 + 1 by omega]
    simp [byteAt_append_length]
  have hhi : byteAt buf (3 + (2 + p.length)) = hi := by
    rw [← hbuf, show 3 + (2 + p.length) = (p ++ [lo]).length + 1 + 1 + 1 + 1 by simp; omega]
    simpa using byteAt_append_length (p ++ [lo]) hi tail
  have hwhole : 6 + p.length ≤ buf.length := by simp [← hbuf]; omega
  have hshort : ¬ buf.length < frameMin := by simp only [frameMin]; omega
  have hmin : ¬ 2 + p.length < lenMin := Nat.not_lt.mpr (Nat.le_add_right _ _)
  have htrunc : ¬ buf.length < 4 + (2 + p.length) := by omega
  simp only [parse, hshort, hstx, hlen, hmin, htrunc, hsum, hlo, hhi, haddr, hcmd, hpay, ne_eq, not_true, if_false]

/-- R119: the instance that built a frame, and every other with its `STX`, reads the fields back. -/
theorem parse_assembleFrame (stx a m : Byte) {p : Bytes} (h : p.length ≤ 253) :
    parse stx (assembleFrame stx a m p) = .ok (.parsed a m p) := by
  rw [assembleFrame_eq, parse_whole_frame _ _ _ _ _ (lenByte_toNat h)]
  simp [frameChecksum]

/-- R25: an instance with another `STX` refuses the frame at its first byte. -/
theorem parse_assembleFrame_of_ne {stx stx' : Byte} (h : stx' ≠ stx) (a m : Byte) (p : Bytes) :
    parse stx' (assembleFrame stx a m p) = .error .formatBadStx := by
  apply parse_of_ne_stx
  · rw [assembleFrame_length]
    omega
  · rw [byteAt_assembleFrame_zero]
    exact h.symm

/-- Settles O47: a built frame is an assembled one, read back where `STX` is equal and refused at byte 0 elsewhere. -/
theorem frameOfAnotherInstance : Obligations.FrameOfAnotherInstance := by
  intro s t addr cmd data f hbuild
  obtain ⟨a, m, p, -, -, -, hp, rfl⟩ := build_eq_ok_iff.mp (gives_build_ok_iff.mp hbuild)
  constructor
  · intro hstx
    refine ⟨a, m, p, gives_parse_iff.mpr ?_⟩
    rw [hstx, parse_assembleFrame _ _ _ hp, responseOf]
  · intro hstx
    rw [gives_parse_iff, parse_assembleFrame_of_ne hstx, responseOf]

end Sys2Proof.Machine

/-! PROOFS. No memory across transactions: a response is a function of `STX` and of its own request, so a list of requests is
answered one by one (20_memory.md R40, 10_state.md R15, R24). -/

namespace Sys2Proof.Machine

/-! ### A run over a list of requests -/

/-- One presented request: it is taken off the host's list and answered, and `STX` stays. -/
theorem step_of_host_present {s : State} {req : Bytes} {later : List HostAction} (h : s.host = .present req :: later) :
    step s = .next { s with host := later, responses := s.responses ++ [responseTo s.stx req] } := by
  rw [step_of_host_cons h, hostStep, transact_eq_answer, State.answer]

/-- As many steps as there are requests answer them all, each from the same `STX`. -/
theorem run_requests (reqs : List Bytes) (s : State) (later : List HostAction)
    (h : s.host = reqs.map HostAction.present ++ later) :
    core.run reqs.length s =
      .next { s with host := later, responses := s.responses ++ reqs.map (responseTo s.stx) } := by
  induction reqs generalizing s with
  | nil =>
    have hhost : s.host = later := h
    simp [run_zero, ← hhost]
  | cons req reqs ih =>
    rw [List.length_cons, run_succ_of_next (step_of_host_present h), ih _ rfl]
    simp

/-- Settles O55: the responses are `responseTo s.stx` of the requests, and `responseTo` reads nothing but `STX`. -/
theorem requestsAnsweredInOrder : Obligations.RequestsAnsweredInOrder := by
  intro reqs s later h
  refine ⟨reqs.map (responseTo s.stx), ?_, run_requests reqs s later h⟩
  rw [List.forall₂_map_right_iff, List.forall₂_same]
  intro req _ t ht
  rw [answers_iff, ht]

/-! ### What reads `STX` -/

/-- R16: `BUILD` and `PARSE` alone read `STX`. -/
theorem outcomeOf_eq_of_reads_no_stx {i : Instr} (hbuild : ∀ addr cmd data, i ≠ .build addr cmd data)
    (hparse : ∀ buf, i ≠ .parse buf) (stx stx' : Byte) : outcomeOf stx i = outcomeOf stx' i := by
  cases i with
  | toU8 value => rfl
  | toPayload value => rfl
  | checksum buf => rfl
  | build addr cmd data => exact absurd rfl (hbuild addr cmd data)
  | parse buf => exact absurd rfl (hparse buf)

/-- Settles O53: what an instruction gives is its outcome, which takes `STX` and nothing else of the state. -/
theorem responseDependsOnRequestAndStx : Obligations.ResponseDependsOnRequestAndStx := by
  intro i s t r hgives
  rw [gives_iff] at hgives
  constructor
  · intro hstx
    rwa [gives_iff, ← hstx]
  · intro hbuild hparse
    rwa [gives_iff, outcomeOf_eq_of_reads_no_stx hbuild hparse t.stx s.stx]

end Sys2Proof.Machine

/-! PROOFS. The decoder against the serialisation written as a relation: it reads exactly the bytes of the tables of R55, so
what it reads fits the interface, what the encoder writes is read back, and what forms no request is answered by name
(30_encoding.md R53 to R56, R61 to R64). -/

namespace Sys2Proof.Machine

/-! ### Numbers of the interface (R55, R56) -/

/-- R56: the four body bytes, high byte first, are one 32-bit two's complement number. -/
theorem int32_eq_toInt (b3 b2 b1 b0 : Byte) : int32 b3 b2 b1 b0 = (b3 ++ b2 ++ b1 ++ b0).toInt := by
  have hnat : (b3 ++ b2 ++ b1 ++ b0).toNat =
      b3.toNat * 2 ^ 24 + b2.toNat * 2 ^ 16 + b1.toNat * 2 ^ 8 + b0.toNat := by
    rw [BitVec.toNat_append, BitVec.toNat_append, BitVec.toNat_append, ← Nat.shiftLeft_add_eq_or_of_lt b0.isLt,
      ← Nat.shiftLeft_add_eq_or_of_lt b1.isLt, ← Nat.shiftLeft_add_eq_or_of_lt b2.isLt]
    simp only [Nat.shiftLeft_eq]
    ring
  rw [BitVec.toInt_eq_toNat_cond, hnat, int32]
  split <;> split <;> omega

/-- The body the encoder writes for an integer of 32 bits is read as that integer. -/
theorem int32_int32Bytes {n : Int} (h : intFits Config.default n = true) :
    ∃ b3 b2 b1 b0, int32Bytes n = [b3, b2, b1, b0] ∧ int32 b3 b2 b1 b0 = n := by
  obtain ⟨hlow, hhigh⟩ := intFits_default.mp h
  refine ⟨_, _, _, _, rfl, ?_⟩
  simp only [int32, BitVec.toNat_ofNat]
  split <;> omega

/-! ### Operands: the decoder's pieces against the relations (R54, R55, R63) -/

theorem rawBufBytes_iff {b bs : Bytes} :
    RawBufBytes b bs ↔ ∃ hi lo, bs = hi :: lo :: b ∧ b.length = be16 hi lo := by
  constructor
  · rintro ⟨hi, lo, _, hlen⟩
    exact ⟨hi, lo, rfl, by rw [hlen, be16, Nat.mul_comm]⟩
  · rintro ⟨hi, lo, rfl, hlen⟩
    exact .mk hi lo b (by rw [hlen, be16, Nat.mul_comm])

theorem decodeBuf_iff_rawBufBytes {bs b rest : Bytes} :
    decodeBuf bs = some (b, rest) ↔ ∃ buf, RawBufBytes b buf ∧ bs = buf ++ rest := by
  simp only [decodeBuf_eq_some, rawBufBytes_iff]
  constructor
  · rintro ⟨hi, lo, rfl, hlen⟩
    exact ⟨_, ⟨hi, lo, rfl, hlen⟩, rfl⟩
  · rintro ⟨_, ⟨hi, lo, rfl, hlen⟩, rfl⟩
    exact ⟨hi, lo, rfl, hlen⟩

theorem valBytes_bytes_iff {b bs : Bytes} : ValBytes (.bytes b) bs ↔ ∃ buf, RawBufBytes b buf ∧ bs = 0x02#8 :: buf := by
  constructor
  · rintro ⟨⟩
    exact ⟨_, .mk _ _ _ ‹_›, rfl⟩
  · rintro ⟨_, ⟨hi, lo, _, hlen⟩, rfl⟩
    exact .bytes hi lo b hlen

theorem valBytes_text_iff {t bs : Bytes} : ValBytes (.text t) bs ↔ ∃ buf, RawBufBytes t buf ∧ bs = 0x03#8 :: buf := by
  constructor
  · rintro ⟨⟩
    exact ⟨_, .mk _ _ _ ‹_›, rfl⟩
  · rintro ⟨_, ⟨hi, lo, _, hlen⟩, rfl⟩
    exact .text hi lo t hlen

/-- What the decoder reads at the front of some bytes is one serialised operand. -/
theorem valBytes_of_decodeVal {bs rest : Bytes} {v : Val} :
    decodeVal bs = some (v, rest) → ∃ vs, ValBytes v vs ∧ bs = vs ++ rest := by
  fun_cases decodeVal bs with
  | case1 | case4 | case6 | case8 => nofun
  | case2 =>
    rintro ⟨⟩
    exact ⟨_, .none, rfl⟩
  | case3 b3 b2 b1 b0 =>
    rintro ⟨⟩
    exact ⟨_, int32_eq_toInt b3 b2 b1 b0 ▸ ValBytes.int b3 b2 b1 b0, rfl⟩
  | case5 tail b after hbuf =>
    rintro ⟨⟩
    obtain ⟨buf, hb, rfl⟩ := decodeBuf_iff_rawBufBytes.mp hbuf
    exact ⟨_, valBytes_bytes_iff.mpr ⟨buf, hb, rfl⟩, rfl⟩
  | case7 tail t after hbuf =>
    rintro ⟨⟩
    obtain ⟨buf, hb, rfl⟩ := decodeBuf_iff_rawBufBytes.mp hbuf
    exact ⟨_, valBytes_text_iff.mpr ⟨buf, hb, rfl⟩, rfl⟩
  | case9 tag tail h0 h1 h2 h3 =>
    rintro ⟨⟩
    exact ⟨[tag], .other tag (by bv_omega), rfl⟩

/-- A serialised operand is read back, whatever bytes follow it: its tag tells its length (R64). -/
theorem decodeVal_of_valBytes {v : Val} {vs : Bytes} (h : ValBytes v vs) (rest : Bytes) :
    decodeVal (vs ++ rest) = some (v, rest) := by
  cases v with
  | none => cases h with | none => rfl
  | int n => cases h with | int b3 b2 b1 b0 => rw [← int32_eq_toInt]; rfl
  | bytes b =>
    obtain ⟨buf, hb, rfl⟩ := valBytes_bytes_iff.mp h
    simp [decodeVal, decodeBuf_iff_rawBufBytes.mpr ⟨buf, hb, rfl⟩]
  | text t =>
    obtain ⟨buf, hb, rfl⟩ := valBytes_text_iff.mp h
    simp [decodeVal, decodeBuf_iff_rawBufBytes.mpr ⟨buf, hb, rfl⟩]
  | other =>
    cases h with
    | other tag reserved =>
      have h0 : tag ≠ 0x00#8 := by bv_omega
      have h1 : tag ≠ 0x01#8 := by bv_omega
      have h2 : tag ≠ 0x02#8 := by bv_omega
      have h3 : tag ≠ 0x03#8 := by bv_omega
      simp [decodeVal, h0, h1, h2, h3]

theorem decodeVal_iff_valBytes {bs rest : Bytes} {v : Val} :
    decodeVal bs = some (v, rest) ↔ ∃ vs, ValBytes v vs ∧ bs = vs ++ rest := by
  constructor
  · exact valBytes_of_decodeVal
  · rintro ⟨vs, hv, rfl⟩
    exact decodeVal_of_valBytes hv rest

/-! ### The three request formats: one `Val`, one `RawBuf`, three `Val`s (R55, R62) -/

theorem decodeV_eq_ok_iff {make : Val → Instr} {bs : Bytes} {i : Instr} :
    decodeV make bs = .ok i ↔ ∃ v, ValBytes v bs ∧ make v = i := by
  constructor
  · fun_cases decodeV make bs with
    | case1 v hv =>
      rintro ⟨⟩
      obtain ⟨vs, hvs, rfl⟩ := decodeVal_iff_valBytes.mp hv
      exact ⟨v, by rwa [List.append_nil], rfl⟩
    | case2 => nofun
  · rintro ⟨v, hv, rfl⟩
    simp [decodeV, decodeVal_iff_valBytes.mpr ⟨bs, hv, (List.append_nil bs).symm⟩]

theorem decodeB_eq_ok_iff {make : Bytes → Instr} {bs : Bytes} {i : Instr} :
    decodeB make bs = .ok i ↔ ∃ b, RawBufBytes b bs ∧ make b = i := by
  constructor
  · fun_cases decodeB make bs with
    | case1 b hb =>
      rintro ⟨⟩
      obtain ⟨buf, hbuf, rfl⟩ := decodeBuf_iff_rawBufBytes.mp hb
      exact ⟨b, by rwa [List.append_nil], rfl⟩
    | case2 => nofun
  · rintro ⟨b, hb, rfl⟩
    simp [decodeB, decodeBuf_iff_rawBufBytes.mpr ⟨bs, hb, (List.append_nil bs).symm⟩]

theorem decodeVVV_eq_ok_iff {make : Val → Val → Val → Instr} {bs : Bytes} {i : Instr} :
    decodeVVV make bs = .ok i ↔
      ∃ a m d as ms ds, ValBytes a as ∧ ValBytes m ms ∧ ValBytes d ds ∧ bs = as ++ ms ++ ds ∧ make a m d = i := by
  constructor
  · fun_cases decodeVVV make bs with
    | case1 a rest1 ha m rest2 hm d hd =>
      rintro ⟨⟩
      obtain ⟨as, has, rfl⟩ := decodeVal_iff_valBytes.mp ha
      obtain ⟨ms, hms, rfl⟩ := decodeVal_iff_valBytes.mp hm
      obtain ⟨ds, hds, rfl⟩ := decodeVal_iff_valBytes.mp hd
      exact ⟨a, m, d, as, ms, ds, has, hms, hds, by simp, rfl⟩
    | case2 | case3 | case4 => nofun
  · rintro ⟨a, m, d, as, ms, ds, ha, hm, hd, rfl, rfl⟩
    have hd' : decodeVal ds = some (d, []) := decodeVal_iff_valBytes.mpr ⟨ds, hd, (List.append_nil ds).symm⟩
    simp [decodeVVV, decodeVal_of_valBytes ha, decodeVal_of_valBytes hm, hd']

/-! ### Whole requests -/

/-- The decoder answers exactly what the tables of R55 serialise. -/
theorem decode_eq_ok_iff {bs : Bytes} {i : Instr} : decode bs = .ok i ↔ RequestBytes i bs := by
  constructor
  · fun_cases decode bs with
    | case1 | case7 => nofun
    | case2 rest =>
      intro h
      obtain ⟨v, hv, rfl⟩ := decodeV_eq_ok_iff.mp h
      exact .toU8 hv
    | case3 rest =>
      intro h
      obtain ⟨v, hv, rfl⟩ := decodeV_eq_ok_iff.mp h
      exact .toPayload hv
    | case4 rest =>
      intro h
      obtain ⟨b, hb, rfl⟩ := decodeB_eq_ok_iff.mp h
      exact .checksum hb
    | case5 rest =>
      intro h
      obtain ⟨a, m, d, as, ms, ds, ha, hm, hd, rfl, rfl⟩ := decodeVVV_eq_ok_iff.mp h
      exact .build ha hm hd
    | case6 rest =>
      intro h
      obtain ⟨b, hb, rfl⟩ := decodeB_eq_ok_iff.mp h
      exact .parse hb
  · intro h
    cases h with
    | toU8 hv => exact decodeV_eq_ok_iff.mpr ⟨_, hv, rfl⟩
    | toPayload hv => exact decodeV_eq_ok_iff.mpr ⟨_, hv, rfl⟩
    | checksum hb => exact decodeB_eq_ok_iff.mpr ⟨_, hb, rfl⟩
    | build ha hm hd => exact decodeVVV_eq_ok_iff.mpr ⟨_, _, _, _, _, _, ha, hm, hd, rfl, rfl⟩
    | parse hb => exact decodeB_eq_ok_iff.mpr ⟨_, hb, rfl⟩

/-- Settles O2: the decoder's three formats against the relation, each operand read where the one before it ends. -/
theorem decodeMeetsSerialisation : Obligations.DecodeMeetsSerialisation :=
  fun _ _ => decode_eq_ok_iff

/-! ### The encoder writes what the tables say (R55, R64) -/

theorem rawBufBytes_encodeBuf {b : Bytes} (h : bufFits Config.default b = true) : RawBufBytes b (encodeBuf b) := by
  have hlen := bufFits_default.mp h
  exact rawBufBytes_iff.mpr ⟨_, _, rfl, (be16_of_bytes (by omega)).symm⟩

theorem valBytes_encodeVal {v : Val} (h : v.wellFormed Config.default = true) : ValBytes v (encodeVal v) := by
  cases v with
  | none => exact .none
  | int n =>
    obtain ⟨b3, b2, b1, b0, hbytes, hn⟩ := int32_int32Bytes h
    rw [encodeVal, hbytes, ← hn, int32_eq_toInt]
    exact .int b3 b2 b1 b0
  | bytes b => exact valBytes_bytes_iff.mpr ⟨_, rawBufBytes_encodeBuf h, rfl⟩
  | text t => exact valBytes_text_iff.mpr ⟨_, rawBufBytes_encodeBuf h, rfl⟩
  | other => exact .other 0x04#8 (by decide)

theorem requestBytes_encode {i : Instr} (h : i.wellFormed Config.default = true) : RequestBytes i (encode i) := by
  cases i with
  | toU8 v => exact .toU8 (valBytes_encodeVal h)
  | toPayload v => exact .toPayload (valBytes_encodeVal h)
  | checksum b => exact .checksum (rawBufBytes_encodeBuf h)
  | build a m d =>
    simp only [Instr.wellFormed, Bool.and_eq_true] at h
    obtain ⟨⟨ha, hm⟩, hd⟩ := h
    exact .build (valBytes_encodeVal ha) (valBytes_encodeVal hm) (valBytes_encodeVal hd)
  | parse b => exact .parse (rawBufBytes_encodeBuf h)

/-- Settles O1: the encoder's bytes are a serialisation of the instruction, and the decoder reads serialisations back. -/
theorem decodeEncodeRoundTrip : Obligations.DecodeEncodeRoundTrip :=
  fun _ h => decode_eq_ok_iff.mpr (requestBytes_encode h)

/-! ### What is serialised fits the interface (R54) -/

theorem bufFits_of_rawBufBytes {b bs : Bytes} (h : RawBufBytes b bs) : bufFits Config.default b = true := by
  obtain ⟨hi, lo, -, hlen⟩ := rawBufBytes_iff.mp h
  have hlt := be16_lt hi lo
  exact bufFits_default.mpr (by omega)

theorem wellFormed_of_valBytes {v : Val} {bs : Bytes} (h : ValBytes v bs) : v.wellFormed Config.default = true := by
  cases v with
  | none | other => rfl
  | int n =>
    cases h with
    | int b3 b2 b1 b0 =>
      exact intFits_default.mpr ⟨BitVec.le_toInt (b3 ++ b2 ++ b1 ++ b0), BitVec.toInt_lt⟩
  | bytes b =>
    obtain ⟨_, hb, -⟩ := valBytes_bytes_iff.mp h
    exact bufFits_of_rawBufBytes hb
  | text t =>
    obtain ⟨_, ht, -⟩ := valBytes_text_iff.mp h
    exact bufFits_of_rawBufBytes ht

theorem wellFormed_of_requestBytes {i : Instr} {bs : Bytes} (h : RequestBytes i bs) :
    i.wellFormed Config.default = true := by
  cases h with
  | toU8 hv => exact wellFormed_of_valBytes hv
  | toPayload hv => exact wellFormed_of_valBytes hv
  | checksum hb => exact bufFits_of_rawBufBytes hb
  | build ha hm hd =>
    simp only [Instr.wellFormed, Bool.and_eq_true]
    exact ⟨⟨wellFormed_of_valBytes ha, wellFormed_of_valBytes hm⟩, wellFormed_of_valBytes hd⟩
  | parse hb => exact bufFits_of_rawBufBytes hb

/-- Settles O3: a serialised integer has 32 bits and a serialised length 16. -/
theorem decodedRequestsAreWellFormed : Obligations.DecodedRequestsAreWellFormed :=
  fun _ _ h => wellFormed_of_requestBytes (decode_eq_ok_iff.mp h)

/-! ### Bytes that form no request (R61, R62) -/

/-- R61: a reserved operation code is refused whatever follows it. -/
theorem decode_of_reserved_op {op : Byte} (h : op.toNat = 0 ∨ 6 ≤ op.toNat) (rest : Bytes) :
    decode (op :: rest) = .error .illegalOp := by
  have h1 : op ≠ 0x01#8 := by bv_omega
  have h2 : op ≠ 0x02#8 := by bv_omega
  have h3 : op ≠ 0x03#8 := by bv_omega
  have h4 : op ≠ 0x04#8 := by bv_omega
  have h5 : op ≠ 0x05#8 := by bv_omega
  simp [decode, h1, h2, h3, h4, h5]

theorem badRequest_of_decodeV_error {make : Val → Instr} {bs : Bytes} {e : DecodeError} :
    decodeV make bs = .error e → e = .badRequest := by
  fun_cases decodeV make bs <;> rintro ⟨⟩
  rfl

theorem badRequest_of_decodeB_error {make : Bytes → Instr} {bs : Bytes} {e : DecodeError} :
    decodeB make bs = .error e → e = .badRequest := by
  fun_cases decodeB make bs <;> rintro ⟨⟩
  rfl

theorem badRequest_of_decodeVVV_error {make : Val → Val → Val → Instr} {bs : Bytes} {e : DecodeError} :
    decodeVVV make bs = .error e → e = .badRequest := by
  fun_cases decodeVVV make bs <;> rintro ⟨⟩ <;> rfl

/-- After a defined operation code the only way to be no request is `BAD_REQUEST`. -/
theorem badRequest_of_decode_error {op : Byte} {rest : Bytes} {e : DecodeError} (hop : 1 ≤ op.toNat ∧ op.toNat ≤ 5) :
    decode (op :: rest) = .error e → e = .badRequest := by
  simp only [decode]
  split_ifs with h1 h2 h3 h4 h5
  · exact badRequest_of_decodeV_error
  · exact badRequest_of_decodeV_error
  · exact badRequest_of_decodeB_error
  · exact badRequest_of_decodeVVV_error
  · exact badRequest_of_decodeB_error
  · exact absurd hop (by bv_omega)

/-- R62 for a defined operation code: bytes that serialise no instruction. -/
theorem decode_of_no_request {op : Byte} {rest : Bytes} (hop : 1 ≤ op.toNat ∧ op.toNat ≤ 5)
    (h : ∀ i, ¬ RequestBytes i (op :: rest)) : decode (op :: rest) = .error .badRequest := by
  cases hd : decode (op :: rest) with
  | ok i => exact absurd (decode_eq_ok_iff.mp hd) (h i)
  | error e => rw [badRequest_of_decode_error hop hd]

/-- Bytes that do not decode are answered with the status of their error. -/
theorem answers_of_decode_error {req : Bytes} {e : DecodeError} (h : decode req = .error e) (s : State) :
    Answers req s (.fail (decodeFailure e)) := by
  rw [answers_iff, responseTo, h]

/-- Settles O4, by what the decoder answers in each of the three cases. -/
theorem malformedRequestsAnswerBadRequest : Obligations.MalformedRequestsAnswerBadRequest := by
  intro s
  refine ⟨fun op rest h1 h5 hno => ?_, fun op rest hop => ?_, ?_⟩
  · exact answers_of_decode_error (decode_of_no_request ⟨h1, h5⟩ hno) s
  · exact answers_of_decode_error (decode_of_reserved_op hop rest) s
  · exact answers_of_decode_error (e := .badRequest) rfl s

/-- Settles O5: the decoder refuses a reserved operation code, and a failure is its one status byte. -/
theorem reservedOpsAnswerIllegalOp : Obligations.ReservedOpsAnswerIllegalOp :=
  fun s _ rest hop => ⟨answers_of_decode_error (decode_of_reserved_op hop rest) s, rfl⟩

/-- Settles O6: the step takes the request off the host's list, and the transaction runs what it decodes to. -/
theorem stepRunsDecodedRequest : Obligations.StepRunsDecodedRequest := by
  intro s req later i hhost hdecode
  rw [step_of_host_cons hhost, hostStep, transact_of_decode_ok hdecode]

/-- Settles O7: each word is laid out as the tables say, so the decoder reads it. -/
theorem specRequestWordsDecode : Obligations.SpecRequestWordsDecode :=
  ⟨decode_eq_ok_iff.mpr (.toU8 (.text 0x00#8 0x04#8 _ rfl)),
    decode_eq_ok_iff.mpr (.toPayload (.bytes 0x00#8 0x02#8 _ rfl)),
    decode_eq_ok_iff.mpr (.checksum (.mk 0x00#8 0x05#8 _ rfl)),
    decode_eq_ok_iff.mpr (.build (.int 0#8 0#8 0#8 1#8) (.int 0#8 0#8 0#8 2#8) (.int 0#8 0#8 0#8 0#8)),
    decode_eq_ok_iff.mpr (.parse (.mk 0x00#8 0x08#8 _ rfl))⟩

end Sys2Proof.Machine

/-! PROOFS. What each operation can answer with `OK`: the form of its result, the lengths of payloads and frames, and so that
every response is legal (30_encoding.md R59, R63, 40_scalar_coercion.md R85, 42_frame_builder.md R100, 43_frame_validator.md
R110). -/

namespace Sys2Proof.Machine

/-! ### Answers by operation -/

theorem gives_ok_iff {i : Instr} {s : State} {r : Result} : Gives i s (.ok r) ↔ outcomeOf s.stx i = .ok r := by
  rw [gives_iff]
  cases outcomeOf s.stx i <;> simp [responseOf]

theorem gives_fail_iff {i : Instr} {s : State} {f : Failure} : Gives i s (.fail f) ↔ outcomeOf s.stx i = .error f := by
  rw [gives_iff]
  cases outcomeOf s.stx i <;> simp [responseOf]

/-- An operation that wraps a computed value answers `OK` exactly when the value was computed. -/
theorem map_eq_ok_iff {α : Type} {x : Except Failure α} {wrap : α → Result} {r : Result} :
    x.map wrap = .ok r ↔ ∃ v, x = .ok v ∧ wrap v = r := by
  cases x <;> simp [Except.map]

theorem gives_toU8_ok_iff {v : Val} {s : State} {b : Byte} : Gives (.toU8 v) s (.ok (.u8 b)) ↔ toU8 v = .ok b := by
  simp [gives_ok_iff, outcomeOf, map_eq_ok_iff]

/-! ### Operands that fail (R63, R128) -/

theorem build_of_addr_error {addr : Val} {f : Failure} (h : toU8 addr = .error f) (stx : Byte) (cmd data : Val) :
    build stx addr cmd data = .error f := by
  simp [build, h]

theorem build_of_cmd_error {addr cmd : Val} {a : Byte} {f : Failure} (ha : toU8 addr = .ok a) (h : toU8 cmd = .error f)
    (stx : Byte) (data : Val) : build stx addr cmd data = .error f := by
  simp [build, ha, h]

theorem build_of_data_error {addr cmd data : Val} {a m : Byte} {f : Failure} (ha : toU8 addr = .ok a)
    (hm : toU8 cmd = .ok m) (h : toPayload data = .error f) (stx : Byte) : build stx addr cmd data = .error f := by
  simp [build, ha, hm, h]

theorem gives_build_fail {addr cmd data : Val} {s : State} {f : Failure} (h : build s.stx addr cmd data = .error f) :
    Gives (.build addr cmd data) s (.fail f) := by
  rw [gives_fail_iff, outcomeOf, h, Except.map]

/-- Settles O8: a reserved tag serialises `OTHER` by itself, in each operand's place, and neither coercion takes `OTHER`. -/
theorem reservedTagsAreOther : Obligations.ReservedTagsAreOther := by
  intro s tag htag
  have hother : ValBytes .other [tag] := .other tag htag
  refine ⟨decode_eq_ok_iff.mpr (.toU8 hother), decode_eq_ok_iff.mpr (.toPayload hother), fun v w vs ws hv hw => ?_,
    gives_fail_iff.mpr rfl, gives_fail_iff.mpr rfl, fun cmd data => ?_, fun addr data a ha => ?_,
    fun addr cmd a m ha hm => ?_⟩
  · simp only [decode_eq_ok_iff]
    refine ⟨.build hother hv hw, ?_, .build hv hw hother⟩
    simpa using RequestBytes.build hv hother hw
  · exact gives_build_fail (build_of_addr_error rfl s.stx cmd data)
  · exact gives_build_fail (build_of_cmd_error (gives_toU8_ok_iff.mp ha) rfl s.stx data)
  · exact gives_build_fail (build_of_data_error (gives_toU8_ok_iff.mp ha) (gives_toU8_ok_iff.mp hm) rfl s.stx)

/-! ### Payloads (R83 to R87) -/

theorem intPayload_ok {n : Int} {p : Bytes} (h : intPayload n = .ok p) : ∃ b, p = [0x00#8, b] := by
  unfold intPayload at h
  split at h <;> cases h
  exact ⟨_, rfl⟩

theorem textPayload_ok {t : Text} {p : Bytes} (h : textPayload t = .ok p) : p = [] ∨ ∃ b, p = [0x00#8, b] := by
  unfold textPayload at h
  dsimp only at h
  split at h
  · cases h
    exact .inl rfl
  · split at h
    · exact .inr (intPayload_ok h)
    · cases h

/-- All that `TO_PAYLOAD` can answer: no bytes, two bytes for a scalar, or the operand's own bytes. -/
theorem toPayload_ok_cases {v : Val} {p : Bytes} (h : toPayload v = .ok p) :
    p = [] ∨ (∃ b, p = [0x00#8, b]) ∨ (v = .bytes p ∧ p.length ≠ 1) := by
  revert h
  fun_cases toPayload v with
  | case1 =>
    rintro ⟨⟩
    exact .inl rfl
  | case2 b0 =>
    rintro ⟨⟩
    exact .inr (.inl ⟨b0, rfl⟩)
  | case3 b hb =>
    rintro ⟨⟩
    refine .inr (.inr ⟨rfl, fun hlen => ?_⟩)
    obtain ⟨b0, rfl⟩ := List.length_eq_one_iff.mp hlen
    exact hb b0 rfl
  | case4 t =>
    intro h
    exact (textPayload_ok h).imp_right .inl
  | case5 n =>
    intro h
    exact .inr (.inl (intPayload_ok h))
  | case6 => nofun

/-- R85: no payload has exactly one byte. -/
theorem toPayload_length_ne_one {v : Val} {p : Bytes} (h : toPayload v = .ok p) : p.length ≠ 1 := by
  obtain rfl | ⟨b, rfl⟩ | ⟨-, hlen⟩ := toPayload_ok_cases h
  · decide
  · simp
  · exact hlen

theorem toPayload_length_le {v : Val} {p : Bytes} (hv : v.wellFormed Config.default = true) (h : toPayload v = .ok p) :
    p.length ≤ 65535 := by
  obtain rfl | ⟨b, rfl⟩ | ⟨rfl, -⟩ := toPayload_ok_cases h
  · simp
  · simp
  · exact bufFits_default.mp hv

/-! ### Frames (R44 to R47, R100) -/

theorem lowByte_eq_mod (c : U16) : lowByte c = BitVec.ofNat 8 (c.toNat % 256) := by
  apply BitVec.eq_of_toNat_eq
  simp [lowByte]

theorem highByte_eq_div (c : U16) : highByte c = BitVec.ofNat 8 (c.toNat / 256) := by
  simp [highByte, Nat.shiftRight_eq_div_pow]

/-- What `BUILD` assembles is the frame of the wire format. -/
theorem assembleFrame_eq_frameOf (stx a m : Byte) (p : Bytes) : assembleFrame stx a m p = frameOf stx a m p := by
  rw [assembleFrame_eq, frameOf, lowByte_eq_mod, highByte_eq_div]

theorem frameOf_length (stx a m : Byte) (p : Bytes) : (frameOf stx a m p).length = 6 + p.length := by
  rw [← assembleFrame_eq_frameOf, assembleFrame_length]

/-- Settles O36: `BUILD` answers an assembled frame of a coerced payload, whose length `TO_PAYLOAD` and R103 bound. -/
theorem builtFrameShape : Obligations.BuiltFrameShape := by
  intro s addr cmd data f hbuild
  obtain ⟨a, m, p, -, -, hdata, hp, rfl⟩ := build_eq_ok_iff.mp (gives_build_ok_iff.mp hbuild)
  rw [assembleFrame_eq_frameOf]
  have hlen := frameOf_length s.stx a m p
  refine ⟨a, m, p, rfl, hp, toPayload_length_ne_one hdata, ?_, by omega, by omega⟩
  have hlenByte : (frameOf s.stx a m p)[1]? = some (BitVec.ofNat 8 (2 + p.length)) := rfl
  rw [hlenByte, Option.map_some, lenByte_toNat hp, hlen]
  congr 1
  omega

theorem build_ok_length {stx : Byte} {addr cmd data : Val} {f : Bytes} (h : build stx addr cmd data = .ok f) :
    6 ≤ f.length ∧ f.length ≤ 259 := by
  obtain ⟨a, m, p, -, -, -, hp, rfl⟩ := build_eq_ok_iff.mp h
  rw [assembleFrame_length]
  omega

theorem slice_length_le (b : Bytes) (i j : Nat) : (slice b i j).length ≤ j - i :=
  List.length_take_le _ _

/-- `PARSE` answers the fields of a frame, its payload as long as one `LEN` byte allows (R116). -/
theorem parse_ok {stx : Byte} {buf : Bytes} {r : Result} (h : parse stx buf = .ok r) :
    ∃ a m p, r = .parsed a m p ∧ p.length ≤ 253 := by
  unfold parse at h
  dsimp only at h
  split_ifs at h
  injection h with h
  refine ⟨_, _, _, h.symm, ?_⟩
  have hslice := slice_length_le buf 4 (2 + (byteAt buf 1).toNat)
  have hbyte := (byteAt buf 1).isLt
  omega

/-! ### Every response is legal -/

theorem outcome_legal {stx : Byte} {i : Instr} {r : Result} (hi : i.wellFormed Config.default = true)
    (h : outcomeOf stx i = .ok r) : (Response.ok r).legal = true := by
  cases i with
  | toU8 v =>
    obtain ⟨b, -, rfl⟩ := map_eq_ok_iff.mp h
    rfl
  | toPayload v =>
    obtain ⟨p, hp, rfl⟩ := map_eq_ok_iff.mp h
    simp [Response.legal, toPayload_length_ne_one hp, toPayload_length_le hi hp]
  | checksum b =>
    cases h
    rfl
  | build a m d =>
    obtain ⟨f, hf, rfl⟩ := map_eq_ok_iff.mp h
    obtain ⟨hmin, hmax⟩ := build_ok_length hf
    simp only [Response.legal, Bool.and_eq_true, decide_eq_true_eq]
    omega
  | parse b =>
    obtain ⟨a, m, p, rfl, hp⟩ := parse_ok h
    simpa [Response.legal] using hp

/-- Whatever the bytes of a request, its response is legal: what decodes fits the interface. -/
theorem responseTo_legal (stx : Byte) (req : Bytes) : (responseTo stx req).legal = true := by
  fun_cases responseTo stx req with
  | case1 i hd =>
    cases ho : outcomeOf stx i with
    | error f => rfl
    | ok r => exact outcome_legal (wellFormed_of_requestBytes (decode_eq_ok_iff.mp hd)) ho
  | case2 e => rfl

/-- Settles O56: a step adds at most the response to one request, and that response is legal. -/
theorem stepKeepsResponsesLegal : Obligations.StepKeepsResponsesLegal := by
  intro s t hinv hstep
  obtain ⟨-, rfl⟩ | ⟨req, later, -, rfl⟩ | ⟨v, later, -, rfl⟩ := step_next_cases hstep
  · exact hinv
  · simp only [State.inv] at hinv
    simp [State.inv, List.all_append, hinv, responseTo_legal]
  · exact hinv

end Sys2Proof.Machine

/-! PROOFS. The bytes of a response: status codes that tell failures apart, the body of each operation, and that a host that
knows the operation can read the response back (30_encoding.md R59, R60). -/

namespace Sys2Proof.Machine

/-! ### Status codes (R60) -/

/-- The table of R60, keyed by the code. -/
def codeTable : List (Byte × Failure) :=
  [(0x10#8, .typeError), (0x20#8, .formatNumber), (0x21#8, .formatTooShort), (0x22#8, .formatBadStx),
    (0x23#8, .formatTruncated), (0x24#8, .formatBadLen), (0x30#8, .rangeValue), (0x31#8, .rangeFrameTooLarge),
    (0x40#8, .checksumError), (0xF0#8, .illegalOp), (0xF1#8, .badRequest)]

theorem codeTable_lookup (f : Failure) : codeTable.lookup f.code = some f := by
  cases f <;> rfl

/-- A failure can be read back from its code. -/
theorem code_injective {f g : Failure} (h : f.code = g.code) : f = g := by
  have hlookup : some f = some g := by rw [← codeTable_lookup f, h, codeTable_lookup g]
  exact Option.some.inj hlookup

theorem code_ne_statusOk (f : Failure) : f.code ≠ statusOk := by
  cases f <;> decide

theorem status_eq_ok_iff {r : Response} : r.status = statusOk ↔ ∃ v, r = .ok v := by
  cases r with
  | ok v => simp [Response.status]
  | fail f => simp [Response.status, code_ne_statusOk f]

/-- Settles O49, failure by failure. -/
theorem statusCodesTellFailuresApart : Obligations.StatusCodesTellFailuresApart := by
  refine ⟨fun f => ?_, fun f g => code_injective, fun r => status_eq_ok_iff, fun r => ?_, fun f => ?_, fun f => ?_,
    fun f => ?_, fun f => ?_⟩
  · cases f <;> decide
  · cases r with
    | ok v => simp [Response.status, statusOk]
    | fail f => cases f <;> decide
  all_goals cases f <;> decide

/-! ### Bodies (R59) -/

theorem toNat_eq_highByte_lowByte (c : U16) : c.toNat = 256 * (highByte c).toNat + (lowByte c).toNat := by
  have := c.isLt
  simp only [highByte_eq_div, lowByte_eq_mod, BitVec.toNat_ofNat]
  omega

/-- A byte sequence that the interface can carry follows its exact length, high byte first. -/
theorem serialiseBytes_eq {b : Bytes} (h : b.length ≤ 65535) :
    ∃ hi lo : Byte, serialiseBytes b = hi :: lo :: b ∧ b.length = 256 * hi.toNat + lo.toNat :=
  ⟨_, _, rfl, (be16_of_bytes (by omega)).symm⟩

/-- Settles O50, operation by operation. -/
theorem responseSerialisation : Obligations.ResponseSerialisation := by
  refine ⟨fun f => rfl, fun s => ⟨fun v r h => ?_, fun v r h => ?_, fun b r h => ?_, fun a m d r h => ?_, fun b r h => ?_⟩⟩
  · obtain ⟨b, -, rfl⟩ := map_eq_ok_iff.mp (gives_ok_iff.mp h)
    exact ⟨b, rfl, rfl⟩
  · obtain ⟨p, -, rfl⟩ := map_eq_ok_iff.mp (gives_ok_iff.mp h)
    refine ⟨p, rfl, fun hp => ?_⟩
    obtain ⟨hi, lo, hbytes, hlen⟩ := serialiseBytes_eq hp
    exact ⟨hi, lo, congrArg (statusOk :: ·) hbytes, hlen⟩
  · cases gives_ok_iff.mp h
    exact ⟨checksum b, _, _, rfl, rfl, toNat_eq_highByte_lowByte _⟩
  · obtain ⟨f, hf, rfl⟩ := map_eq_ok_iff.mp (gives_ok_iff.mp h)
    obtain ⟨-, hmax⟩ := build_ok_length hf
    obtain ⟨hi, lo, hbytes, hlen⟩ := serialiseBytes_eq (b := f) (by omega)
    exact ⟨f, hi, lo, rfl, congrArg (statusOk :: ·) hbytes, hlen⟩
  · obtain ⟨a, m, p, rfl, hp⟩ := parse_ok (gives_ok_iff.mp h)
    obtain ⟨hi, lo, hbytes, hlen⟩ := serialiseBytes_eq (b := p) (by omega)
    exact ⟨a, m, p, hi, lo, rfl, congrArg (statusOk :: a :: m :: ·) hbytes, hlen⟩

/-! ### Reading a response back -/

/-- The form of result each operation code is answered with (R53, R59). -/
inductive ResultOf : Byte → Result → Prop where
  | toU8 (v : Byte) : ResultOf 0x01#8 (.u8 v)
  | toPayload (p : Bytes) : ResultOf 0x02#8 (.bytes p)
  | checksum (c : U16) : ResultOf 0x03#8 (.u16 c)
  | build (f : Bytes) : ResultOf 0x04#8 (.bytes f)
  | parse (a m : Byte) (p : Bytes) : ResultOf 0x05#8 (.parsed a m p)

theorem resultOf_of_gives {i : Instr} {s : State} {r : Result} (h : Gives i s (.ok r)) : ResultOf i.opcode r := by
  rw [gives_ok_iff] at h
  cases i with
  | toU8 v =>
    obtain ⟨b, -, rfl⟩ := map_eq_ok_iff.mp h
    exact .toU8 b
  | toPayload v =>
    obtain ⟨p, -, rfl⟩ := map_eq_ok_iff.mp h
    exact .toPayload p
  | checksum b =>
    cases h
    exact .checksum _
  | build a m d =>
    obtain ⟨f, -, rfl⟩ := map_eq_ok_iff.mp h
    exact .build f
  | parse b =>
    obtain ⟨a, m, p, rfl, -⟩ := parse_ok h
    exact .parse a m p

theorem serialiseBytes_injective {b c : Bytes} (h : serialiseBytes b = serialiseBytes c) : b = c :=
  List.append_inj_right h rfl

/-- Two results of one operation with the same body are the same. -/
theorem result_eq_of_body_eq {op : Byte} {r q : Result} (hr : ResultOf op r) (hq : ResultOf op q)
    (h : r.body = q.body) : r = q := by
  cases hr with
  | toU8 v =>
    cases hq with
    | toU8 w => simpa [Result.body] using h
  | toPayload p =>
    cases hq with
    | toPayload p' => rw [serialiseBytes_injective h]
  | checksum c =>
    cases hq with
    | checksum d =>
      simp only [Result.body, List.cons.injEq, and_true] at h
      obtain ⟨hhigh, hlow⟩ := h
      have hnat : c.toNat = d.toNat := by
        rw [toNat_eq_highByte_lowByte c, hhigh, hlow, ← toNat_eq_highByte_lowByte d]
      rw [BitVec.eq_of_toNat_eq hnat]
  | build f =>
    cases hq with
    | build f' => rw [serialiseBytes_injective h]
  | parse a m p =>
    cases hq with
    | parse a' m' p' =>
      simp only [Result.body, List.cons.injEq] at h
      obtain ⟨rfl, rfl, hp⟩ := h
      rw [serialiseBytes_injective hp]

/-- The first byte of a response is its status. -/
theorem serialise_head (r : Response) : r.serialise.head? = some r.status := by
  cases r <;> rfl

/-- Settles O51: equal bytes have equal status; then the failures are equal by their code, or the results by their body. -/
theorem responseBytesDetermineResponse : Obligations.ResponseBytesDetermineResponse := by
  intro i j s t r q hop hr hq h
  have hstatus : r.status = q.status := by
    rw [← Option.some_inj, ← serialise_head, h, serialise_head]
  cases r with
  | ok v =>
    obtain ⟨w, rfl⟩ := status_eq_ok_iff.mp hstatus.symm
    have hbody : v.body = w.body := List.cons_injective h
    rw [result_eq_of_body_eq (hop ▸ resultOf_of_gives hr) (resultOf_of_gives hq) hbody]
  | fail f =>
    cases q with
    | ok w => exact absurd hstatus (code_ne_statusOk f)
    | fail g => rw [code_injective hstatus]

end Sys2Proof.Machine

/-! PROOFS. Request lines: each reader of the assembler undoes the writer of the same part of a line, whatever
follows that part, so the assembler reads every written line back (30_encoding.md R65, log 19). -/

namespace Sys2Proof.Machine

/-! ### Beginnings and spaces -/

theorem afterPrefix_eq_some_iff {p t rest : Text} : afterPrefix p t = some rest ↔ t = p ++ rest := by
  induction p generalizing t with
  | nil => simp [afterPrefix]
  | cons c p ih =>
    cases t with
    | nil => simp [afterPrefix]
    | cons d t => by_cases hcd : c = d <;> simp [afterPrefix, hcd, ih, Ne.symm]

@[simp] theorem afterPrefix_append (p rest : Text) : afterPrefix p (p ++ rest) = some rest :=
  afterPrefix_eq_some_iff.mpr rfl

theorem afterPrefix_eq_none {p t : Text} (h : ∀ rest, t ≠ p ++ rest) : afterPrefix p t = none :=
  Option.eq_none_iff_forall_ne_some.mpr fun rest hrest => h rest (afterPrefix_eq_some_iff.mp hrest)

/-- A text that begins with one word does not begin with another that differs from it. -/
theorem afterPrefix_other_word {p q : Text} (hpq : ¬ p <+: q) (hqp : ¬ q <+: p) (rest : Text) :
    afterPrefix p (q ++ rest) = none := by
  refine afterPrefix_eq_none fun rest' h => ?_
  obtain h | h := List.prefix_or_prefix_of_prefix (h ▸ List.prefix_append p rest') (List.prefix_append q rest)
  · exact hpq h
  · exact hqp h

theorem afterPrefix_of_not_mem {c : Byte} {p t : Text} (hp : c ∈ p) (ht : c ∉ t) : afterPrefix p t = none :=
  afterPrefix_eq_none fun rest h => ht (h ▸ List.mem_append_left rest hp)

@[simp] theorem skipSpaces_nil : skipSpaces [] = [] := rfl

@[simp] theorem skipSpaces_space (t : Text) : skipSpaces (ascii " " ++ t) = skipSpaces t := rfl

/-! ### Integers -/

theorem decDigit_ofNat {d : Nat} (h : d < 10) : DecDigit (BitVec.ofNat 8 (0x30 + d)) d := by
  refine ⟨h, ?_⟩
  rw [BitVec.toNat_ofNat]
  omega

theorem numeral_concat (base : Nat) (ds : List Nat) (d : Nat) : numeral base (ds ++ [d]) = numeral base ds * base + d := by
  simp [numeral]

/-- The written digits are those of the number, when there is room for them. -/
theorem decimalText_digits {fuel n : Nat} (h : n < 10 ^ fuel) :
    ∃ ds, List.Forall₂ DecDigit (decimalText fuel n) ds ∧ numeral 10 ds = n := by
  induction fuel generalizing n with
  | zero => exact ⟨[], .nil, by simp at h; simp [numeral, h]⟩
  | succ fuel ih =>
    unfold decimalText
    split
    next hn => exact ⟨[n], .cons (decDigit_ofNat hn) .nil, by simp [numeral]⟩
    next hn =>
      obtain ⟨ds, hds, hvalue⟩ := ih (n := n / 10) (by rw [pow_succ] at h; omega)
      refine ⟨ds ++ [n % 10], List.rel_append hds (.cons (decDigit_ofNat (by omega)) .nil), ?_⟩
      rw [numeral_concat, hvalue]
      omega

theorem decimalText_ne_nil (fuel n : Nat) : decimalText (fuel + 1) n ≠ [] := by
  unfold decimalText
  split <;> simp

theorem mem_decimalText {fuel n : Nat} {c : Byte} (h : c ∈ decimalText fuel n) : 0x30 ≤ c.toNat ∧ c.toNat ≤ 0x39 := by
  induction fuel generalizing n with
  | zero => simp [decimalText] at h
  | succ fuel ih =>
    have hdigit : ∀ d < 10, c = BitVec.ofNat 8 (0x30 + d) → 0x30 ≤ c.toNat ∧ c.toNat ≤ 0x39 := by
      rintro d hd rfl
      rw [(decDigit_ofNat hd).2]
      omega
    unfold decimalText at h
    split at h
    next hn => exact hdigit n hn (List.mem_singleton.mp h)
    next hn =>
      obtain h | h := List.mem_append.mp h
      · exact ih h
      · exact hdigit (n % 10) (by omega) (List.mem_singleton.mp h)

theorem asmDigits_of_some {value : Byte → Option Nat} {t : Text} {ds : List Nat} (base : Nat) (ht : t ≠ [])
    (h : digits value t = some ds) : asmDigits value base t = some (numeral base ds) := by
  cases t with
  | nil => exact absurd rfl ht
  | cons c t => simp [asmDigits, h]

theorem asmUnsigned_decimalText (n : Nat) : asmUnsigned (decimalText (n.log2 + 1) n) = some n := by
  have hroom : n < 10 ^ (n.log2 + 1) := lt_of_lt_of_le Nat.lt_log2_self (Nat.pow_le_pow_left (by decide) _)
  obtain ⟨ds, hds, hvalue⟩ := decimalText_digits hroom
  have hx : 0x78#8 ∉ decimalText (n.log2 + 1) n := fun h => absurd (mem_decimalText h) (by decide)
  rw [asmUnsigned, afterPrefix_of_not_mem (by decide) hx]
  simp only
  rw [asmDigits_of_some 10 (decimalText_ne_nil _ n) ((digits_eq_some fun _ _ => decValue_eq_some).mpr hds), hvalue]

theorem asmInteger_integerText (n : Int) : asmInteger (integerText n) = some n := by
  unfold integerText
  split
  next hn =>
    simp only [asmInteger, afterPrefix_append, asmUnsigned_decimalText]
    congr 1
    omega
  next hn =>
    have hminus : 0x2D#8 ∉ decimalText (n.natAbs.log2 + 1) n.natAbs := fun h => absurd (mem_decimalText h) (by decide)
    simp only [asmInteger, List.nil_append, afterPrefix_of_not_mem (p := ascii "-") (by decide) hminus,
      asmUnsigned_decimalText]
    congr 1
    omega

theorem mem_integerText {n : Int} {c : Byte} (h : c ∈ integerText n) : c ≠ 0x20#8 ∧ c ≠ 0x2C#8 := by
  obtain h | h := List.mem_append.mp h
  · split at h
    · rw [List.mem_singleton.mp h]
      decide
    · cases h
  · have hdigit := mem_decimalText h
    constructor <;> rintro rfl <;> exact absurd hdigit (by decide)

/-- What may follow an integer: the end of the line, a space or a comma. -/
def EndsToken (rest : Text) : Prop :=
  ∀ c ∈ rest.head?, c = 0x20#8 ∨ c = 0x2C#8

theorem splitToken_append {t rest : Text} (ht : ∀ c ∈ t, c ≠ 0x20#8 ∧ c ≠ 0x2C#8) (hrest : EndsToken rest) :
    splitToken (t ++ rest) = (t, rest) := by
  have hchars : ∀ c ∈ t, (c != 0x20#8 && c != 0x2C#8) = true := by simpa using ht
  rw [splitToken, List.takeWhile_append_of_pos hchars, List.dropWhile_append_of_pos hchars]
  cases rest with
  | nil => simp
  | cons c rest =>
    obtain rfl | rfl := hrest c rfl <;> simp

/-! ### Byte sequences -/

@[simp] theorem hexValue_hexChar {d : Nat} (h : d < 16) : hexValue (hexChar d) = some d := by
  rw [hexValue_eq_some, hexChar, HexDigit]
  split <;> rw [BitVec.toNat_ofNat] <;> omega

/-- No hexadecimal digit is a code that has no hexadecimal value. -/
theorem hexChar_ne {d : Nat} (h : d < 16) {c : Byte} (hc : hexValue c = none) : hexChar d ≠ c := by
  rintro rfl
  simp [h] at hc

theorem highDigit_lt (b : Byte) : b.toNat / 16 < 16 := by
  have hlt := b.isLt
  omega

theorem lowDigit_lt (b : Byte) : b.toNat % 16 < 16 := Nat.mod_lt _ (by decide)

/-- A byte is its two hexadecimal digits. -/
theorem ofNat_hexDigits (b : Byte) : BitVec.ofNat 8 (16 * (b.toNat / 16) + b.toNat % 16) = b := by
  simp [Nat.div_add_mod]

theorem asmBufBody_close (rest : Text) : asmBufBody (ascii "]" ++ rest) = some ([], rest) := by
  cases rest <;> rfl

theorem asmBufBody_space (t : Text) : asmBufBody (ascii " " ++ t) = asmBufBody t := by
  cases t <;> rfl

theorem asmBufBody_byteText (b : Byte) (t : Text) :
    asmBufBody (byteText b ++ t) = (asmBufBody t).map (Prod.map (b :: ·) id) := by
  have hclose : hexChar (b.toNat / 16) ≠ 0x5D#8 := hexChar_ne (highDigit_lt b) rfl
  have hspace : hexChar (b.toNat / 16) ≠ 0x20#8 := hexChar_ne (highDigit_lt b) rfl
  cases h : asmBufBody t <;>
    simp [byteText, asmBufBody, hclose, hspace, highDigit_lt, lowDigit_lt, h, ofNat_hexDigits, Prod.map]

theorem asmBufBody_bytesText (b : Bytes) (rest : Text) :
    asmBufBody (bytesText b ++ (ascii "]" ++ rest)) = some (b, rest) := by
  fun_induction bytesText b with
  | case1 => exact asmBufBody_close rest
  | case2 b => rw [asmBufBody_byteText, asmBufBody_close]; rfl
  | case3 b c bs ih => rw [List.append_assoc, List.append_assoc, asmBufBody_byteText, asmBufBody_space, ih]; rfl

theorem asmBuf_bufText (b : Bytes) (rest : Text) : asmBuf (bufText b ++ rest) = some (b, rest) := by
  simp only [asmBuf, bufText, List.append_assoc, afterPrefix_append, asmBufBody_bytesText]

/-! ### Texts -/

theorem asmTextBody_close (rest : Text) : asmTextBody (0x22#8 :: rest) = some ([], rest) := by
  rw [asmTextBody.eq_def]
  cases rest <;> simp

theorem asmTextBody_printable {c : Byte} (hc : 0x20 ≤ c.toNat ∧ c.toNat ≤ 0x7E ∧ c ≠ 0x22#8 ∧ c ≠ 0x5C#8) (t : Text) :
    asmTextBody (c :: t) = (asmTextBody t).map (Prod.map (c :: ·) id) := by
  obtain ⟨hlow, hhigh, hquote, hslash⟩ := hc
  rw [asmTextBody.eq_def]
  cases t with
  | nil => simp [asmTextBody, hquote]
  | cons e t => cases h : asmTextBody (e :: t) <;> simp [hquote, hslash, hlow, hhigh, h, Prod.map]

/-- The three escapes of one letter, with the codes they stand for. -/
theorem asmTextBody_letterEscape {e code : Byte}
    (h : (e, code) ∈ [(0x74#8, 0x09#8), (0x6E#8, 0x0A#8), (0x72#8, 0x0D#8)]) (t : Text) :
    asmTextBody (0x5C#8 :: e :: t) = (asmTextBody t).map (Prod.map (code :: ·) id) := by
  simp only [List.mem_cons, List.not_mem_nil, or_false, Prod.mk.injEq] at h
  rw [asmTextBody.eq_def]
  cases ht : asmTextBody t <;> obtain ⟨rfl, rfl⟩ | ⟨rfl, rfl⟩ | ⟨rfl, rfl⟩ := h <;> simp [ht, Prod.map]

theorem asmTextBody_hexEscape (c : Byte) (t : Text) :
    asmTextBody ([0x5C#8, 0x78#8] ++ byteText c ++ t) = (asmTextBody t).map (Prod.map (c :: ·) id) := by
  cases h : asmTextBody t <;> simp [byteText, asmTextBody, highDigit_lt, lowDigit_lt, h, ofNat_hexDigits, Prod.map]

/-- Each written character is read as its code. -/
theorem asmTextBody_quotedChar (c : Byte) (t : Text) :
    asmTextBody (quotedChar c ++ t) = (asmTextBody t).map (Prod.map (c :: ·) id) := by
  unfold quotedChar
  split_ifs with htab hnewline hreturn hprintable
  · exact asmTextBody_letterEscape (by simp [htab]) t
  · exact asmTextBody_letterEscape (by simp [hnewline]) t
  · exact asmTextBody_letterEscape (by simp [hreturn]) t
  · exact asmTextBody_printable hprintable t
  · exact asmTextBody_hexEscape c t

theorem asmTextBody_quoted (t rest : Text) :
    asmTextBody (t.flatMap quotedChar ++ 0x22#8 :: rest) = some (t, rest) := by
  induction t with
  | nil => exact asmTextBody_close rest
  | cons c t ih => rw [List.flatMap_cons, List.append_assoc, asmTextBody_quotedChar, ih]; rfl

/-! ### Operands and lines -/

theorem asmVal_valText (v : Val) {rest : Text} (hrest : EndsToken rest) : asmVal (valText v ++ rest) = some (v, rest) := by
  cases v with
  | none => simp only [asmVal, valText, afterPrefix_append]
  | other => simp (disch := decide) only [asmVal, valText, afterPrefix_append, afterPrefix_other_word]
  | int n =>
    simp (disch := decide) only [asmVal, valText, List.append_assoc, afterPrefix_append, afterPrefix_other_word]
    simp only [splitToken_append (fun _ => mem_integerText) hrest, asmInteger_integerText]
  | bytes b =>
    simp (disch := decide) only [asmVal, valText, List.append_assoc, afterPrefix_append, afterPrefix_other_word,
      asmBuf_bufText]
  | text t =>
    simp (disch := decide) only [asmVal, valText, List.append_assoc, afterPrefix_append, afterPrefix_other_word]
    simp only [List.cons_append, List.nil_append, asmTextBody_quoted]

theorem skipSpaces_valText (v : Val) (rest : Text) : skipSpaces (valText v ++ rest) = valText v ++ rest := by
  cases v <;> rfl

theorem asmOnlyVal_valText (make : Val → Instr) (v : Val) : asmOnlyVal make (valText v) = some (make v) := by
  have hval : asmVal (valText v) = some (v, []) := by simpa using asmVal_valText v (rest := []) nofun
  have hskip : skipSpaces (valText v) = valText v := by simpa using skipSpaces_valText v []
  simp [asmOnlyVal, hskip, hval]

theorem asmOnlyBuf_bufText (make : Bytes → Instr) (b : Bytes) : asmOnlyBuf make (bufText b) = some (make b) := by
  have hbuf : asmBuf (bufText b) = some (b, []) := by simpa using asmBuf_bufText b []
  have hskip : skipSpaces (bufText b) = bufText b := rfl
  simp [asmOnlyBuf, hskip, hbuf]

theorem asmValComma_valText (v : Val) (rest : Text) :
    asmValComma (valText v ++ (ascii ", " ++ rest)) = some (v, ascii " " ++ rest) := by
  have hcomma : EndsToken (ascii ", " ++ rest) := by
    rintro c ⟨⟩
    exact .inr rfl
  have hafter : afterPrefix (ascii ",") (skipSpaces (ascii ", " ++ rest)) = some (ascii " " ++ rest) := rfl
  simp only [asmValComma, skipSpaces_valText, asmVal_valText v hcomma, hafter]

theorem asmValComma_space (t : Text) : asmValComma (ascii " " ++ t) = asmValComma t := rfl

theorem asmOnlyVal_space (make : Val → Instr) (t : Text) : asmOnlyVal make (ascii " " ++ t) = asmOnlyVal make t := rfl

/-- Settles O9: the mnemonic picks the format, and each operand's reader undoes its writer. -/
theorem assembleReadsWhatIsWritten : Obligations.AssembleReadsWhatIsWritten := by
  intro i
  cases i with
  | toU8 v => simp only [assemble, instrText, afterPrefix_append, asmOnlyVal_valText]
  | toPayload v =>
    simp (disch := decide) only [assemble, instrText, afterPrefix_append, afterPrefix_other_word, asmOnlyVal_valText]
  | checksum b =>
    simp (disch := decide) only [assemble, instrText, afterPrefix_append, afterPrefix_other_word, asmOnlyBuf_bufText]
  | build a m d =>
    simp (disch := decide) only [assemble, instrText, List.append_assoc, afterPrefix_append, afterPrefix_other_word,
      asmValComma_valText, asmValComma_space, asmOnlyVal_space, asmOnlyVal_valText]
  | parse b =>
    simp (disch := decide) only [assemble, instrText, afterPrefix_append, afterPrefix_other_word, asmOnlyBuf_bufText]

end Sys2Proof.Machine

/-! PROOFS. The scalar coercions: what trimming and the numeral readers do, told by the grammars of Safety.lean, and from that
what `TO_U8` and `TO_PAYLOAD` answer for each shape of operand (40_scalar_coercion.md R70 to R89). -/

namespace Sys2Proof.Machine

/-! ### Trimming (R71) -/

theorem dropWhile_eq_self_of_head {u : Text} (h : ∀ c, u.head? = some c → c ∉ whitespaceCodes) :
    u.dropWhile isWhitespace = u := by
  cases u with
  | nil => rfl
  | cons c u => exact List.dropWhile_cons_of_neg fun hc => h c rfl ((isWhitespace_iff c).mp hc)

theorem head_dropWhile_not_mem {t : Text} {c : Byte} (h : (t.dropWhile isWhitespace).head? = some c) :
    c ∉ whitespaceCodes := by
  have hc := List.head?_dropWhile_not isWhitespace t
  rw [h] at hc
  rw [← isWhitespace_iff, hc]
  exact Bool.false_ne_true

theorem takeWhile_mem_whitespace {t : Text} {c : Byte} (h : c ∈ t.takeWhile isWhitespace) : c ∈ whitespaceCodes :=
  (isWhitespace_iff c).mp (List.mem_takeWhile_imp h)

/-- A beginning of whitespace is dropped whole. -/
theorem dropWhile_append_of_blank {l : Text} (h : ∀ c ∈ l, c ∈ whitespaceCodes) (rest : Text) :
    (l ++ rest).dropWhile isWhitespace = rest.dropWhile isWhitespace :=
  List.dropWhile_append_of_pos fun c hc => (isWhitespace_iff c).mpr (h c hc)

theorem trim_of_blank {t : Text} (h : ∀ c ∈ t, c ∈ whitespaceCodes) : trim t = [] := by
  have hdrop : t.dropWhile isWhitespace = [] := by simpa using dropWhile_append_of_blank h []
  rw [trim, hdrop]
  rfl

/-- What `trim` takes off at the end is whitespace, after what it takes off at the front. -/
theorem dropWhile_eq_trim_append (t : Text) :
    ∃ r, t.dropWhile isWhitespace = trim t ++ r ∧ ∀ c ∈ r, c ∈ whitespaceCodes := by
  refine ⟨((t.dropWhile isWhitespace).reverse.takeWhile isWhitespace).reverse, ?_,
    fun c hc => takeWhile_mem_whitespace (List.mem_reverse.mp hc)⟩
  rw [trim, ← List.reverse_append, List.takeWhile_append_dropWhile, List.reverse_reverse]

theorem isTrimOf_trim (t : Text) : IsTrimOf t (trim t) := by
  obtain ⟨r, hsplit, hr⟩ := dropWhile_eq_trim_append t
  refine ⟨t.takeWhile isWhitespace, r, ?_, fun c => takeWhile_mem_whitespace, hr, fun c hc => ?_, fun c hc => ?_⟩
  · rw [List.append_assoc, ← hsplit, List.takeWhile_append_dropWhile]
  · refine head_dropWhile_not_mem (t := t) ?_
    rw [hsplit, List.head?_append, hc]
    rfl
  · rw [trim, List.getLast?_reverse] at hc
    exact head_dropWhile_not_mem hc

/-- What stands between the outer whitespace is determined by the text. -/
theorem eq_trim_of_isTrimOf {t u : Text} (h : IsTrimOf t u) : u = trim t := by
  obtain ⟨l, r, rfl, hl, hr, hhead, hlast⟩ := h
  cases u with
  | nil =>
    refine (trim_of_blank fun c hc => ?_).symm
    rw [List.append_nil] at hc
    exact (List.mem_append.mp hc).elim (hl c) (hr c)
  | cons c u =>
    have hfront : (c :: u ++ r).dropWhile isWhitespace = c :: u ++ r := dropWhile_eq_self_of_head hhead
    have hback : (c :: u).reverse.dropWhile isWhitespace = (c :: u).reverse :=
      dropWhile_eq_self_of_head fun d hd => hlast d (by rwa [List.head?_reverse] at hd)
    rw [trim, List.append_assoc, dropWhile_append_of_blank hl, hfront, List.reverse_append,
      dropWhile_append_of_blank (by simpa using hr), hback, List.reverse_reverse]

/-- Settles O22. -/
theorem trimRemovesOuterWhitespace : Obligations.TrimRemovesOuterWhitespace :=
  fun t => ⟨isTrimOf_trim t, fun _ => eq_trim_of_isTrimOf⟩

/-! ### Numerals (R73, R74) -/

/-- A reader's answer agrees with a grammar: it reads exactly the numbers that are written, and its one failure is
`FORMAT_NUMBER`. -/
def Reads (answer : Except Failure Int) (writes : Int → Prop) : Prop :=
  (∀ v, answer = .ok v ↔ writes v) ∧ ∀ f, answer = .error f → f = .formatNumber

theorem Reads.ok {answer : Except Failure Int} {writes : Int → Prop} (h : Reads answer writes) {v : Int} (hv : writes v) :
    answer = .ok v :=
  (h.1 v).mpr hv

theorem Reads.error {answer : Except Failure Int} {writes : Int → Prop} (h : Reads answer writes) (hno : ∀ v, ¬ writes v) :
    answer = .error .formatNumber := by
  cases answer with
  | ok v => exact absurd ((h.1 v).mp rfl) (hno v)
  | error f => rw [h.2 f rfl]

theorem Reads.congr {answer : Except Failure Int} {writes writes' : Int → Prop} (h : Reads answer writes)
    (heq : ∀ v, writes' v ↔ writes v) : Reads answer writes' :=
  ⟨fun v => (h.1 v).trans (heq v).symm, h.2⟩

theorem reads_parseDigits {value : Byte → Option Nat} {R : Byte → Nat → Prop} (h : ∀ c d, value c = some d ↔ R c d)
    (base : Nat) (t : Text) :
    Reads (parseDigits value base t) fun v => t ≠ [] ∧ ∃ ds, List.Forall₂ R t ds ∧ v = (positional base ds : Nat) := by
  cases t with
  | nil => simp [Reads, parseDigits_nil]
  | cons c t =>
    cases hds : digits value (c :: t) with
    | none =>
      have hno : ∀ ds, ¬ List.Forall₂ R (c :: t) ds := fun ds hR => by simp [(digits_eq_some h).mpr hR] at hds
      simp [Reads, parseDigits_of_none hds, hno]
    | some ds =>
      have hone : ∀ es, List.Forall₂ R (c :: t) es ↔ ds = es := fun es => by simp [← digits_eq_some h, hds]
      simp [Reads, parseDigits_of_some (List.cons_ne_nil c t) hds, hone, eq_comm]

theorem reads_parseHex (t : Text) : Reads (parseHex t) fun v => ∃ n : Nat, HexNumeral t n ∧ v = n :=
  (reads_parseDigits (fun _ _ => hexValue_eq_some) 16 t).congr fun v => by simp [HexNumeral, and_assoc]

theorem reads_parseDigits_decimal (t : Text) :
    Reads (parseDigits decValue 10 t) fun v => ∃ n : Nat, DecDigits t n ∧ v = n :=
  (reads_parseDigits (fun _ _ => decValue_eq_some) 10 t).congr fun v => by simp [DecDigits, and_assoc]

theorem hexNumeral_zero_cons {t : Text} {n : Nat} (h : HexNumeral t n) : HexNumeral (0x30#8 :: t) n := by
  obtain ⟨-, ds, hds, rfl⟩ := h
  exact ⟨List.cons_ne_nil _ _, 0 :: ds, .cons (.inl (by decide)) hds, by simp [positional]⟩

/-- Leading zeros change nothing (R73). -/
theorem hexNumeral_replicate_zero {t : Text} {n : Nat} (h : HexNumeral t n) (k : Nat) :
    HexNumeral (List.replicate k 0x30#8 ++ t) n := by
  induction k with
  | zero => exact h
  | succ k ih => exact hexNumeral_zero_cons ih

/-- Settles O23. -/
theorem parseHexIsPositionalSum : Obligations.ParseHexIsPositionalSum := by
  have hread : ∀ (t : Text) (n : Nat), HexNumeral t n → parseHex t = .ok (n : Int) :=
    fun t n h => (reads_parseHex t).ok ⟨n, h, rfl⟩
  refine ⟨hread, fun t hno => (reads_parseHex t).error ?_, fun k t n h => hread _ n (hexNumeral_replicate_zero h k)⟩
  rintro v ⟨n, hn, -⟩
  exact hno n hn

/-- A sign is no decimal digit. -/
theorem not_decDigits_sign {c : Byte} (hc : c = 0x2B#8 ∨ c = 0x2D#8) (d : Text) (n : Nat) : ¬ DecDigits (c :: d) n := by
  rintro ⟨-, ds, hds, -⟩
  cases hds with
  | cons hdigit _ =>
    obtain ⟨-, hcode⟩ := hdigit
    obtain rfl | rfl := hc <;> simp only [BitVec.reduceToNat] at hcode <;> omega

theorem decNumeral_plus_iff {d : Text} {v : Int} : DecNumeral (0x2B#8 :: d) v ↔ ∃ n : Nat, DecDigits d n ∧ v = n := by
  constructor
  · rintro (h | h | h)
    · exact absurd h (not_decDigits_sign (.inl rfl) d _)
    · exact ⟨_, h, rfl⟩
  · rintro ⟨n, h, rfl⟩
    exact .plus h

theorem decNumeral_minus_iff {d : Text} {v : Int} : DecNumeral (0x2D#8 :: d) v ↔ ∃ n : Nat, DecDigits d n ∧ -v = n := by
  constructor
  · rintro (h | h | h)
    · exact absurd h (not_decDigits_sign (.inr rfl) d _)
    · exact ⟨_, h, neg_neg _⟩
  · rintro ⟨n, h, hv⟩
    rw [← neg_neg v, hv]
    exact .minus h

theorem decNumeral_unsigned_iff {c : Byte} {d : Text} {v : Int} (hplus : c ≠ 0x2B#8) (hminus : c ≠ 0x2D#8) :
    DecNumeral (c :: d) v ↔ ∃ n : Nat, DecDigits (c :: d) n ∧ v = n := by
  constructor
  · rintro (h | h | h)
    · exact ⟨_, h, rfl⟩
    · exact absurd rfl hplus
    · exact absurd rfl hminus
  · rintro ⟨n, h, rfl⟩
    exact .plain h

theorem not_decNumeral_nil (v : Int) : ¬ DecNumeral [] v := by
  rintro ⟨h, -⟩
  exact h rfl

theorem Reads.neg {answer : Except Failure Int} {writes : Int → Prop} (h : Reads answer writes) :
    Reads (answer.map (- ·)) fun v => writes (-v) := by
  cases answer with
  | ok w => exact ⟨fun v => by simp [Except.map, ← h.1, neg_eq_iff_eq_neg], nofun⟩
  | error f => exact ⟨fun v => by simp [Except.map, ← h.1], fun g hg => h.2 g hg⟩

theorem parseDec_minus (d : Text) : parseDec (0x2D#8 :: d) = (parseDigits decValue 10 d).map (- ·) := by
  cases h : parseDigits decValue 10 d <;> simp [parseDec, h, Except.map]

theorem reads_parseDec (t : Text) : Reads (parseDec t) (DecNumeral t) := by
  cases t with
  | nil => exact ⟨fun v => by simp [parseDec, not_decNumeral_nil], fun f hf => by cases hf; rfl⟩
  | cons c d =>
    by_cases hplus : c = 0x2B#8
    · subst hplus
      exact (reads_parseDigits_decimal d).congr fun v => decNumeral_plus_iff
    by_cases hminus : c = 0x2D#8
    · subst hminus
      rw [parseDec_minus]
      exact (reads_parseDigits_decimal d).neg.congr fun v => decNumeral_minus_iff
    · rw [parseDec, if_neg hplus, if_neg hminus]
      exact (reads_parseDigits_decimal (c :: d)).congr fun v => decNumeral_unsigned_iff hplus hminus

/-- Settles O24. -/
theorem parseDecIsSignedPositionalSum : Obligations.ParseDecIsSignedPositionalSum :=
  ⟨fun t _ => (reads_parseDec t).ok, fun t => (reads_parseDec t).error⟩

/-! ### Which texts are prefixed, and which are hexadecimal (R72, R76) -/

theorem has0xPrefix_of_prefixed {u h : Text} (hp : Prefixed u h) : has0xPrefix u = true := by
  obtain rfl | rfl := hp <;> rfl

theorem drop_of_prefixed {u h : Text} (hp : Prefixed u h) : u.drop 2 = h := by
  obtain rfl | rfl := hp <;> rfl

theorem isHexDigit_iff {c : Byte} : isHexDigit c = true ↔ ∃ d, HexDigit c d := by
  simp [isHexDigit, Option.isSome_iff_exists, hexValue_eq_some]

theorem exists_digits_iff {R : Byte → Nat → Prop} {t : Text} :
    (∃ ds, List.Forall₂ R t ds) ↔ ∀ c ∈ t, ∃ d, R c d := by
  induction t with
  | nil => simp
  | cons c t ih => simp [List.forall₂_cons_left_iff, ← ih]

/-- The test of the heuristic (R80) on a text that is not empty. -/
theorem exists_hexNumeral_iff {u : Text} : (∃ n, HexNumeral u n) ↔ u ≠ [] ∧ u.all isHexDigit = true := by
  simp [HexNumeral, isHexDigit_iff, ← exists_digits_iff]

theorem all_isHexDigit_of_hexNumeral {u : Text} {n : Nat} (hn : HexNumeral u n) : u.all isHexDigit = true :=
  (exists_hexNumeral_iff.mp ⟨n, hn⟩).2

/-- The letter of `0x` is no hexadecimal digit. -/
theorem not_hexNumeral_of_prefixed {u h : Text} (hp : Prefixed u h) (n : Nat) : ¬ HexNumeral u n := by
  intro hn
  have hall := all_isHexDigit_of_hexNumeral hn
  obtain rfl | rfl := hp <;> simp [isHexDigit, hexValue] at hall

/-! ### The number a text is read as, before the range check (R76, R86) -/

/-- The number `TO_U8` reads a trimmed text as. -/
def u8TextValue (u : Text) : Except Failure Int :=
  if has0xPrefix u then parseHex (u.drop 2) else if u.all isHexDigit then parseHex u else parseDec u

/-- The number `TO_PAYLOAD` reads a trimmed, non-empty text as. -/
def payloadTextValue (u : Text) : Except Failure Int :=
  if has0xPrefix u then parseHex (u.drop 2) else parseDec u

theorem textNumberU8_of_ok {t : Text} {v : Int} (h : u8TextValue (trim t) = .ok v) : textNumberU8 t = rangeU8 v := by
  rw [u8TextValue] at h
  simp only [textNumberU8, h]

theorem textNumberU8_of_error {t : Text} {f : Failure} (h : u8TextValue (trim t) = .error f) :
    textNumberU8 t = .error f := by
  rw [u8TextValue] at h
  simp only [textNumberU8, h]

theorem textPayload_of_ok {t : Text} {v : Int} (hne : trim t ≠ []) (h : payloadTextValue (trim t) = .ok v) :
    textPayload t = intPayload v := by
  rw [payloadTextValue] at h
  simp only [textPayload, if_neg hne, h]

theorem textPayload_of_error {t : Text} {f : Failure} (hne : trim t ≠ []) (h : payloadTextValue (trim t) = .error f) :
    textPayload t = .error f := by
  rw [payloadTextValue] at h
  simp only [textPayload, if_neg hne, h]

theorem reads_u8TextValue (u : Text) : Reads (u8TextValue u) (U8Numeral u) := by
  unfold u8TextValue
  split_ifs with hprefix hhex
  · have hpu := (has0xPrefix_iff u).mp hprefix
    refine (reads_parseHex _).congr fun v => ⟨?_, ?_⟩
    · rintro (⟨hp, hn⟩ | hn | ⟨hbare, -, -⟩)
      · exact ⟨_, drop_of_prefixed hp ▸ hn, rfl⟩
      · exact absurd hn (not_hexNumeral_of_prefixed hpu _)
      · exact absurd hpu (hbare _)
    · rintro ⟨n, hn, rfl⟩
      exact .hexPrefixed hpu hn
  · refine (reads_parseHex u).congr fun v => ⟨?_, ?_⟩
    · rintro (⟨hp, -⟩ | hn | ⟨-, hnot, hdec⟩)
      · exact absurd (has0xPrefix_of_prefixed hp) hprefix
      · exact ⟨_, hn, rfl⟩
      · have hne : u ≠ [] := by
          rintro rfl
          exact not_decNumeral_nil v hdec
        obtain ⟨n, hn⟩ := exists_hexNumeral_iff.mpr ⟨hne, hhex⟩
        exact absurd hn (hnot n)
    · rintro ⟨n, hn, rfl⟩
      exact .hexBare hn
  · refine (reads_parseDec u).congr fun v => ⟨?_, fun hdec => ?_⟩
    · rintro (⟨hp, -⟩ | hn | ⟨-, -, hdec⟩)
      · exact absurd (has0xPrefix_of_prefixed hp) hprefix
      · exact absurd (all_isHexDigit_of_hexNumeral hn) hhex
      · exact hdec
    · exact .decimal (fun h hp => hprefix (has0xPrefix_of_prefixed hp))
        (fun n hn => hhex (all_isHexDigit_of_hexNumeral hn)) hdec

theorem reads_payloadTextValue (u : Text) : Reads (payloadTextValue u) (PayloadNumeral u) := by
  unfold payloadTextValue
  split_ifs with hprefix
  · have hpu := (has0xPrefix_iff u).mp hprefix
    refine (reads_parseHex _).congr fun v => ⟨?_, ?_⟩
    · rintro (⟨hp, hn⟩ | ⟨hbare, -⟩)
      · exact ⟨_, drop_of_prefixed hp ▸ hn, rfl⟩
      · exact absurd hpu (hbare _)
    · rintro ⟨n, hn, rfl⟩
      exact .hexPrefixed hpu hn
  · refine (reads_parseDec u).congr fun v => ⟨?_, fun hdec => ?_⟩
    · rintro (⟨hp, -⟩ | ⟨-, hdec⟩)
      · exact absurd (has0xPrefix_of_prefixed hp) hprefix
      · exact hdec
    · exact .decimal (fun h hp => hprefix (has0xPrefix_of_prefixed hp)) hdec

/-! ### Integers, in the range and outside it (R78, R87) -/

/-- In the range the byte is the number, not a truncation of it. -/
theorem toNat_ofInt_byte {n : Int} (h0 : 0 ≤ n) (h1 : n ≤ 255) : ((BitVec.ofInt 8 n).toNat : Int) = n := by
  rw [BitVec.toNat_ofInt]
  omega

theorem intPayload_of_mem {n : Int} (h0 : 0 ≤ n) (h1 : n ≤ 255) : intPayload n = .ok [0x00#8, BitVec.ofInt 8 n] := by
  simp only [intPayload, rangeU8_of_mem h0 h1]

theorem intPayload_of_not_mem {n : Int} (h : n < 0 ∨ 255 < n) : intPayload n = .error .rangeValue := by
  simp only [intPayload, rangeU8_of_not_mem h]

/-! ### What the two operations compute for each shape (R77 to R88) -/

theorem toU8_text_of_numeral {t : Text} {v : Int} (h : U8Numeral (trim t) v) : toU8 (.text t) = rangeU8 v :=
  textNumberU8_of_ok ((reads_u8TextValue (trim t)).ok h)

theorem toU8_text_of_no_numeral {t : Text} (h : ∀ v, ¬ U8Numeral (trim t) v) : toU8 (.text t) = .error .formatNumber :=
  textNumberU8_of_error ((reads_u8TextValue (trim t)).error h)

/-- Nothing is written by no characters at all. -/
theorem not_u8Numeral_nil (v : Int) : ¬ U8Numeral [] v := by
  rintro (⟨hp, -⟩ | hn | ⟨-, -, hdec⟩)
  · exact absurd (has0xPrefix_of_prefixed hp) Bool.false_ne_true
  · exact hn.1 rfl
  · exact not_decNumeral_nil v hdec

theorem toU8_text_of_blank {t : Text} (h : ∀ c ∈ t, c ∈ whitespaceCodes) : toU8 (.text t) = .error .formatNumber :=
  toU8_text_of_no_numeral (trim_of_blank h ▸ not_u8Numeral_nil)

theorem toU8_bytes_eq_text {b : Bytes} (h : b.length ≠ 1) : toU8 (.bytes b) = toU8 (.text b) := by
  match b with
  | [] => rfl
  | [_] => exact absurd rfl h
  | _ :: _ :: _ => rfl

theorem toPayload_text_of_empty {t : Text} (h : trim t = []) : toPayload (.text t) = .ok [] := by
  simp only [toPayload, textPayload, if_pos h]

theorem not_payloadNumeral_nil (v : Int) : ¬ PayloadNumeral [] v := by
  rintro (⟨hp, -⟩ | ⟨-, hdec⟩)
  · exact absurd (has0xPrefix_of_prefixed hp) Bool.false_ne_true
  · exact not_decNumeral_nil v hdec

theorem toPayload_text_of_numeral {t : Text} {v : Int} (h : PayloadNumeral (trim t) v) :
    toPayload (.text t) = intPayload v := by
  have hne : trim t ≠ [] := fun hnil => not_payloadNumeral_nil v (hnil ▸ h)
  exact textPayload_of_ok hne ((reads_payloadTextValue (trim t)).ok h)

theorem toPayload_text_of_no_numeral {t : Text} (hne : trim t ≠ []) (h : ∀ v, ¬ PayloadNumeral (trim t) v) :
    toPayload (.text t) = .error .formatNumber :=
  textPayload_of_error hne ((reads_payloadTextValue (trim t)).error h)

theorem toPayload_bytes {b : Bytes} (h : b.length ≠ 1) : toPayload (.bytes b) = .ok b := by
  match b with
  | [] => rfl
  | [_] => exact absurd rfl h
  | _ :: _ :: _ => rfl

/-! ### Answers -/

/-- An operation that wraps a computed value fails exactly as the computation did. -/
theorem map_eq_error_iff {α : Type} {x : Except Failure α} {wrap : α → Result} {f : Failure} :
    x.map wrap = .error f ↔ x = .error f := by
  cases x <;> simp [Except.map]

theorem gives_toU8_fail_iff {v : Val} {s : State} {f : Failure} : Gives (.toU8 v) s (.fail f) ↔ toU8 v = .error f := by
  rw [gives_fail_iff, outcomeOf, map_eq_error_iff]

theorem gives_toPayload_ok_iff {v : Val} {s : State} {p : Bytes} :
    Gives (.toPayload v) s (.ok (.bytes p)) ↔ toPayload v = .ok p := by
  simp [gives_ok_iff, outcomeOf, map_eq_ok_iff]

theorem gives_toPayload_fail_iff {v : Val} {s : State} {f : Failure} :
    Gives (.toPayload v) s (.fail f) ↔ toPayload v = .error f := by
  rw [gives_fail_iff, outcomeOf, map_eq_error_iff]

/-- Settles O14: the trimmed text is read by its grammar, then the number checked. -/
theorem toU8TextNumerals : Obligations.ToU8TextNumerals := by
  intro s t u hu
  obtain rfl := eq_trim_of_isTrimOf hu
  refine ⟨fun v hv h0 h1 => ?_, fun v hv hout => ?_, fun hno => ?_⟩
  · rw [gives_toU8_ok_iff, toU8_text_of_numeral hv, rangeU8_of_mem h0 h1]
  · rw [gives_toU8_fail_iff, toU8_text_of_numeral hv, rangeU8_of_not_mem hout]
  · rw [gives_toU8_fail_iff, toU8_text_of_no_numeral hno]

theorem hexDigit_of_decDigit {c : Byte} {d : Nat} (h : DecDigit c d) : HexDigit c d := .inl h

/-- A sign leaves `TO_U8` only the decimal reading (R80). -/
theorem u8Numeral_of_signed {c : Byte} {d : Text} {v : Int} (hc : c = 0x2B#8 ∨ c = 0x2D#8) (h : DecNumeral (c :: d) v) :
    U8Numeral (c :: d) v := by
  refine .decimal (fun r hp => ?_) (fun n hn => ?_) h
  · obtain rfl | rfl := hc <;> simp [Prefixed] at hp
  · have hall := all_isHexDigit_of_hexNumeral hn
    obtain rfl | rfl := hc <;> simp [isHexDigit, hexValue] at hall

/-- Settles O15, as cases of O14: bare digits are a hexadecimal numeral, signed ones a decimal numeral. -/
theorem bareDigitsReadAsHexadecimal : Obligations.BareDigitsReadAsHexadecimal := by
  intro s t u hu
  obtain ⟨hin, hout, -⟩ := toU8TextNumerals s t u hu
  have hinNat : ∀ n : Nat, U8Numeral u n → n ≤ 255 → Gives (.toU8 (.text t)) s (.ok (.u8 (BitVec.ofNat 8 n))) :=
    fun n hn hle => BitVec.ofInt_natCast 8 n ▸ hin n hn (by omega) (by omega)
  refine ⟨fun n hn => ⟨hinNat n (.hexBare hn), fun h => hout n (.hexBare hn) (by omega)⟩,
    fun ds hne hds => ⟨hne, ds, hds.imp fun _ _ => hexDigit_of_decDigit, rfl⟩, fun d n hd => ⟨?_, ?_, ?_, ?_⟩⟩
  · rintro rfl hle
    exact hinNat n (u8Numeral_of_signed (.inl rfl) (.plus hd)) hle
  · rintro rfl hlt
    exact hout n (u8Numeral_of_signed (.inl rfl) (.plus hd)) (by omega)
  · rintro rfl hpos
    exact hout (-n) (u8Numeral_of_signed (.inr rfl) (.minus hd)) (by omega)
  · rintro rfl rfl
    exact hinNat 0 (u8Numeral_of_signed (.inr rfl) (.minus hd)) (by omega)

/-- Settles O18: the trimmed text is empty, or read by its grammar and then treated as an integer. -/
theorem toPayloadTextNumerals : Obligations.ToPayloadTextNumerals := by
  intro s t u hu
  obtain rfl := eq_trim_of_isTrimOf hu
  refine ⟨fun hnil => ?_, fun v hv h0 h1 => ?_, fun v hv hout => ?_, fun hne hno => ?_⟩
  · rw [gives_toPayload_ok_iff, toPayload_text_of_empty hnil]
  · rw [gives_toPayload_ok_iff, toPayload_text_of_numeral hv, intPayload_of_mem h0 h1]
  · rw [gives_toPayload_fail_iff, toPayload_text_of_numeral hv, intPayload_of_not_mem hout]
  · rw [gives_toPayload_fail_iff, toPayload_text_of_no_numeral hne hno]

/-- Settles O16: a blank text trims to nothing, which is the empty payload and no numeral. -/
theorem toPayloadEmptyCases : Obligations.ToPayloadEmptyCases :=
  fun _ => ⟨gives_toPayload_ok_iff.mpr rfl, gives_toPayload_ok_iff.mpr rfl,
    fun _ hblank => ⟨gives_toPayload_ok_iff.mpr (toPayload_text_of_empty (trim_of_blank hblank)),
      gives_toU8_fail_iff.mpr (toU8_text_of_blank hblank)⟩,
    gives_toU8_fail_iff.mpr rfl⟩

/-- Settles O10. -/
theorem toU8Integer : Obligations.ToU8Integer :=
  fun _ n => ⟨fun h0 h1 => ⟨BitVec.ofInt 8 n, toNat_ofInt_byte h0 h1, gives_toU8_ok_iff.mpr (rangeU8_of_mem h0 h1)⟩,
    fun hout => gives_toU8_fail_iff.mpr (rangeU8_of_not_mem hout)⟩

/-- Settles O11. -/
theorem toU8SingleByte : Obligations.ToU8SingleByte :=
  fun _ _ => gives_toU8_ok_iff.mpr rfl

/-- Settles O12: the two operands have one outcome, and the empty text is blank. -/
theorem toU8ByteSequenceAsText : Obligations.ToU8ByteSequenceAsText := by
  refine fun s => ⟨fun b hb => ⟨_, gives_iff.mpr rfl, gives_iff.mpr ?_⟩, ?_⟩
  · rw [outcomeOf, outcomeOf, toU8_bytes_eq_text hb]
  · rw [gives_toU8_fail_iff, toU8_bytes_eq_text (by decide), toU8_text_of_blank (by simp)]

/-- Settles O13. -/
theorem toU8UnsupportedShapes : Obligations.ToU8UnsupportedShapes :=
  fun _ => ⟨gives_toU8_fail_iff.mpr rfl, gives_toU8_fail_iff.mpr rfl⟩

/-- Settles O17. -/
theorem toPayloadByteSequences : Obligations.ToPayloadByteSequences :=
  fun _ => ⟨fun _ => gives_toPayload_ok_iff.mpr rfl, fun _ hb => gives_toPayload_ok_iff.mpr (toPayload_bytes hb)⟩

/-- Settles O19. -/
theorem toPayloadInteger : Obligations.ToPayloadInteger :=
  fun _ n => ⟨fun h0 h1 =>
      ⟨BitVec.ofInt 8 n, toNat_ofInt_byte h0 h1, gives_toPayload_ok_iff.mpr (intPayload_of_mem h0 h1)⟩,
    fun hout => gives_toPayload_fail_iff.mpr (intPayload_of_not_mem hout)⟩

/-- Settles O20. -/
theorem toPayloadUnsupportedShape : Obligations.ToPayloadUnsupportedShape :=
  fun _ => ⟨gives_toPayload_fail_iff.mpr rfl, gives_toPayload_ok_iff.mpr rfl⟩

end Sys2Proof.Machine

/-! PROOFS. The checksum as a machine that takes in one bit at a time (41_crc16_modbus.md R91 to R98). At most 16 bits taken in
one by one act as if they were all XORed into the register first, and the bit step loses nothing; so different bits give
different checksums, and the register's own 16 bits clear it. -/

namespace Sys2Proof.Machine

/-! ### The bit step and the byte step -/

theorem getLsbD_zero_eq (c : U16) : c.getLsbD 0 = decide (c.toNat % 2 = 1) := by
  rw [BitVec.getLsbD, Nat.testBit_zero]

theorem crcBit_of_low_false {c : U16} (h : c.getLsbD 0 = false) : crcBit c = c >>> 1 := by
  rw [crcBit, h, if_neg Bool.false_ne_true]

theorem crcBit_of_low_true {c : U16} (h : c.getLsbD 0 = true) : crcBit c = c >>> 1 ^^^ crcPoly := by
  rw [crcBit, if_pos h]

theorem ushiftRight_one_eq (c : U16) : c >>> 1 = BitVec.ofNat 16 (c.toNat / 2) := by
  have := c.isLt
  apply BitVec.eq_of_toNat_eq
  rw [BitVec.toNat_ushiftRight, Nat.shiftRight_eq_div_pow, BitVec.toNat_ofNat]
  omega

theorem crcBits_eq_iterate (n : Nat) (c : U16) : crcBits n c = crcBit^[n] c := by
  induction n generalizing c with
  | zero => rfl
  | succ n ih => exact ih (crcBit c)

theorem crcBits_zero_word (n : Nat) : crcBits n 0#16 = 0#16 := by
  have h := crcBits_xor n 0#16 0#16
  rwa [BitVec.xor_self, BitVec.xor_self] at h

/-- A bit that the shift has not yet brought to position 0 passes through the bit step untouched. -/
theorem crcBit_shiftLeft_one {d : U16} (h : d.getLsbD 15 = false) : crcBit (d <<< 1) = d := by
  rw [crcBit_of_low_false (by simp)]
  apply BitVec.eq_of_getLsbD_eq
  intro i hi
  rw [BitVec.getLsbD_ushiftRight, BitVec.getLsbD_shiftLeft]
  by_cases h15 : i = 15
  · rw [h15, h]
    rfl
  · simp [show 1 + i < 16 by omega]

/-! ### The register fed bit by bit -/

/-- A bit in position 0 of a register. -/
def bitWord (x : Bool) : U16 :=
  (BitVec.ofBool x).setWidth 16

/-- The register takes in one bit of the stream: XOR into position 0, then the bit step. -/
def feedBit (c : U16) (x : Bool) : U16 :=
  crcBit (c ^^^ bitWord x)

/-- The register takes in bits in the order of the list. -/
def feedBits (c : U16) (w : List Bool) : U16 :=
  w.foldl feedBit c

/-- At most 16 bits as a register, the first in position 0. -/
def bitsWord (w : List Bool) : U16 :=
  (BitVec.ofBoolListLE w).setWidth 16

theorem feedBits_append (c : U16) (w v : List Bool) : feedBits c (w ++ v) = feedBits (feedBits c w) v :=
  List.foldl_append ..

theorem getLsbD_bitsWord (w : List Bool) (i : Nat) : (bitsWord w).getLsbD i = (decide (i < 16) && w.getD i false) := by
  rw [bitsWord, BitVec.getLsbD_setWidth, BitVec.getLsbD_ofBoolListLE]

theorem bitsWord_cons (x : Bool) (w : List Bool) : bitsWord (x :: w) = bitWord x ^^^ bitsWord w <<< 1 := by
  apply BitVec.eq_of_getLsbD_eq
  intro i hi
  rw [BitVec.getLsbD_xor, BitVec.getLsbD_shiftLeft, getLsbD_bitsWord, getLsbD_bitsWord, bitWord, BitVec.getLsbD_setWidth]
  cases i with
  | zero => simp
  | succ i => simp [hi, show i < 16 by omega]

/-- The bits of a value, as far as they fit the register. -/
theorem bitsWord_bits {n : Nat} (b : BitVec n) :
    bitsWord ((List.range n).map b.getLsbD) = b.setWidth 16 := by
  apply BitVec.eq_of_getLsbD_eq
  intro i hi
  rw [getLsbD_bitsWord, BitVec.getLsbD_setWidth]
  by_cases hin : i < n
  · simp [hin]
  · simp [hin, BitVec.getLsbD_of_ge b i (by omega)]

theorem bitsWord_injective {w v : List Bool} (hlen : w.length = v.length) (h16 : w.length ≤ 16)
    (h : bitsWord w = bitsWord v) : w = v := by
  apply List.ext_getElem hlen
  intro i hw hv
  have hi : i < 16 := by omega
  have hbit : (bitsWord w).getLsbD i = (bitsWord v).getLsbD i := by rw [h]
  rw [getLsbD_bitsWord, getLsbD_bitsWord] at hbit
  simpa [hi, hw, hv] using hbit

/-- The key fact: the later bits may be XORed in ahead of time, each as far up as it comes later. -/
theorem feedBits_eq_crcBits (c : U16) {w : List Bool} (h16 : w.length ≤ 16) :
    feedBits c w = crcBits w.length (c ^^^ bitsWord w) := by
  induction w generalizing c with
  | nil => exact (BitVec.xor_zero).symm
  | cons x w ih =>
    have hlen : w.length ≤ 15 := Nat.le_of_succ_le_succ h16
    have htop : (bitsWord w).getLsbD 15 = false := by rw [getLsbD_bitsWord, List.getD_eq_default _ _ hlen, Bool.and_false]
    calc feedBits (feedBit c x) w
        = crcBits w.length (crcBit (c ^^^ bitWord x) ^^^ bitsWord w) := ih _ (by omega)
      _ = crcBits w.length (crcBit (c ^^^ bitWord x ^^^ bitsWord w <<< 1)) := by
          rw [crcBit_xor (c ^^^ bitWord x), crcBit_shiftLeft_one htop]
      _ = crcBits (w.length + 1) (c ^^^ bitsWord (x :: w)) := by
          rw [bitsWord_cons, crcBits, BitVec.xor_assoc]

theorem feedBit_injective {c d : U16} {x : Bool} (h : feedBit c x = feedBit d x) : c = d :=
  (BitVec.xor_left_inj _).mp (crcBits_injective (n := 1) h)

/-- Different registers stay different while they take in the same bits. -/
theorem feedBits_injective {c d : U16} {w : List Bool} (h : feedBits c w = feedBits d w) : c = d := by
  induction w generalizing c d with
  | nil => exact h
  | cons x w ih => exact feedBit_injective (ih h)

/-- Up to 16 different bits take a register to different values. -/
theorem feedBits_ne {c : U16} {w v : List Bool} (hlen : w.length = v.length) (h16 : w.length ≤ 16) (hne : w ≠ v) :
    feedBits c w ≠ feedBits c v := by
  intro h
  rw [feedBits_eq_crcBits c h16, feedBits_eq_crcBits c (hlen ▸ h16), ← hlen] at h
  exact hne (bitsWord_injective hlen h16 ((BitVec.xor_right_inj c).mp (crcBits_injective h)))

/-- A register that takes in its own 16 bits ends at zero. -/
theorem feedBits_own_bits (c : U16) : feedBits c ((List.range 16).map c.getLsbD) = 0#16 := by
  rw [feedBits_eq_crcBits c (by simp), bitsWord_bits, BitVec.setWidth_eq, BitVec.xor_self,
    crcBits_zero_word]

/-! ### The checksum is the register fed the stream of bits -/

theorem bitStream_cons (b : Byte) (m : Bytes) : bitStream (b :: m) = (List.range 8).map b.getLsbD ++ bitStream m :=
  List.flatMap_cons

theorem bitStream_append (m n : Bytes) : bitStream (m ++ n) = bitStream m ++ bitStream n :=
  List.flatMap_append

/-- The byte step takes in the bits of the byte from the least significant one (R90, R92). -/
theorem crcByte_eq_feedBits (c : U16) (b : Byte) : crcByte c b = feedBits c ((List.range 8).map b.getLsbD) := by
  rw [feedBits_eq_crcBits c (by simp), bitsWord_bits, List.length_map, List.length_range, crcByte]

theorem crcFrom_eq_feedBits (c : U16) (m : Bytes) : crcFrom c m = feedBits c (bitStream m) := by
  induction m generalizing c with
  | nil => rfl
  | cons b m ih =>
    calc crcFrom (crcByte c b) m
        = feedBits (crcByte c b) (bitStream m) := ih _
      _ = feedBits c (bitStream (b :: m)) := by rw [bitStream_cons, feedBits_append, crcByte_eq_feedBits]

theorem byteBits_injective {b b' : Byte} (h : (List.range 8).map b.getLsbD = (List.range 8).map b'.getLsbD) : b = b' :=
  BitVec.eq_of_getLsbD_eq fun i hi => List.map_inj_left.mp h i (List.mem_range.mpr hi)

/-- The two bytes of a checksum in the order of a frame (R31) carry its 16 bits in order. -/
theorem bitStream_low_high (c : U16) : bitStream [lowByte c, highByte c] = (List.range 16).map c.getLsbD := by
  have hlow : (List.range 8).map (lowByte c).getLsbD = (List.range 8).map c.getLsbD := by
    apply List.map_congr_left
    intro i hi
    rw [lowByte, BitVec.ofNat_toNat, BitVec.getLsbD_setWidth]
    simp [List.mem_range.mp hi]
  have hhigh : (List.range 8).map (highByte c).getLsbD = (List.range 8).map fun i => c.getLsbD (8 + i) := by
    apply List.map_congr_left
    intro i hi
    rw [highByte, BitVec.ofNat_toNat, BitVec.getLsbD_setWidth, BitVec.getLsbD_ushiftRight]
    simp [List.mem_range.mp hi]
  rw [bitStream_cons, bitStream_cons, hlow, hhigh, List.range_add (n := 8) (m := 8), List.map_append, List.map_map]
  simp [bitStream, Function.comp_def]

/-! ### The statements -/

/-- Settles O32: the bits before the burst lead to one register, the burst to two, and the bits after it keep them apart. -/
theorem burstChangesChecksum : Obligations.BurstChangesChecksum := by
  intro m n pre w v post hm hn hlen h16 hne h
  rw [checksum, checksum, crcFrom_eq_feedBits, crcFrom_eq_feedBits, hm, hn, feedBits_append, feedBits_append,
    feedBits_append, feedBits_append] at h
  exact feedBits_ne hlen h16 hne (feedBits_injective h)

/-- Settles O31: the eight bits of a byte are a burst. -/
theorem oneChangedByteChangesChecksum : Obligations.OneChangedByteChangesChecksum := by
  intro pre post b b' hne
  apply burstChangesChecksum _ _ (bitStream pre) ((List.range 8).map b.getLsbD) ((List.range 8).map b'.getLsbD)
    (bitStream post)
  · rw [bitStream_append, bitStream_cons, List.append_assoc]
  · rw [bitStream_append, bitStream_cons, List.append_assoc]
  · simp
  · simp
  · exact fun h => hne (byteBits_injective h)

/-- Settles O30: the two appended bytes are the register's own bits. -/
theorem checksumResidueIsZero : Obligations.ChecksumResidueIsZero := by
  intro m
  rw [← lowByte_eq_mod, ← highByte_eq_div]
  calc checksum (m ++ [lowByte (checksum m), highByte (checksum m)])
      = crcFrom (checksum m) [lowByte (checksum m), highByte (checksum m)] := crcFrom_append ..
    _ = 0#16 := by rw [crcFrom_eq_feedBits, bitStream_low_high, feedBits_own_bits]

/-- Settles O29: widening a byte, XOR and the bit steps are all linear. -/
theorem crcByteIsLinear : Obligations.CrcByteIsLinear := by
  intro c d a b
  have hregister : c ^^^ d ^^^ (a ^^^ b).setWidth 16 = (c ^^^ a.setWidth 16) ^^^ (d ^^^ b.setWidth 16) := by
    rw [BitVec.setWidth_xor]
    ac_rfl
  rw [crcByte, hregister, crcBits_xor, crcByte, crcByte]

/-- Settles O25: the low bit is the parity, and the shift is the half. -/
theorem crcBitStep : Obligations.CrcBitStep := by
  refine fun c => ⟨fun heven => ?_, fun hodd => ?_, crcBit_top c⟩
  · rw [crcBit_of_low_false (by rw [getLsbD_zero_eq, heven]; rfl), ushiftRight_one_eq]
  · rw [crcBit_of_low_true (by rw [getLsbD_zero_eq, hodd]; rfl), ushiftRight_one_eq, crcPoly]

/-- Settles O26: the widened byte has nothing in its high byte. -/
theorem crcByteStep : Obligations.CrcByteStep := by
  intro c b
  have hhigh : BitVec.ofNat 16 b.toNat >>> 8 = 0#16 := by bv_omega
  constructor
  · rw [BitVec.ofNat_toNat, ← crcBits_eq_iterate, crcByte]
  · rw [BitVec.ushiftRight_xor_distrib, hhigh, BitVec.xor_zero]

/-- Settles O27. -/
theorem checksumFoldsBytes : Obligations.ChecksumFoldsBytes :=
  fun _ _ => ⟨fun _ hb => decode_eq_ok_iff.mpr (.checksum hb), gives_iff.mpr rfl, gives_iff.mpr rfl⟩

/-- Settles O28: the one value is the checksum. -/
theorem checksumIsPure : Obligations.ChecksumIsPure :=
  fun buf => ⟨checksum buf, fun _ => gives_iff.mpr rfl⟩

end Sys2Proof.Machine

/-! PROOFS. `BUILD` on operands that coerce (42_frame_builder.md R103 to R106): what it answers is decided by the length of the
payload alone, and `STX` goes into byte 0 and nowhere else. -/

namespace Sys2Proof.Machine

/-! ### Operands that coerce -/

/-- A byte's number coerces to the byte itself (R78). -/
theorem toU8_int_toNat (b : Byte) : toU8 (.int b.toNat) = .ok b := by
  have hlt := b.isLt
  calc toU8 (.int b.toNat)
      = .ok (BitVec.ofInt 8 b.toNat) := rangeU8_of_mem (by omega) (by omega)
    _ = .ok b := by rw [BitVec.ofInt_natCast, BitVec.ofNat_toNat, BitVec.setWidth_eq]

/-- R104 to R106: a payload that fits gives the frame of the coerced operands. -/
theorem build_of_fitting_payload {addr cmd data : Val} {a m : Byte} {p : Bytes} (ha : toU8 addr = .ok a)
    (hm : toU8 cmd = .ok m) (hdata : toPayload data = .ok p) (hp : p.length ≤ 253) (stx : Byte) :
    build stx addr cmd data = .ok (frameOf stx a m p) :=
  build_eq_ok_iff.mpr ⟨a, m, p, ha, hm, hdata, hp, assembleFrame_eq_frameOf stx a m p⟩

/-- R103: a payload that does not fit fails the length check of step 3. -/
theorem build_of_long_payload {addr cmd data : Val} {a m : Byte} {p : Bytes} (ha : toU8 addr = .ok a)
    (hm : toU8 cmd = .ok m) (hdata : toPayload data = .ok p) (hp : 254 ≤ p.length) (stx : Byte) :
    build stx addr cmd data = .error .rangeFrameTooLarge := by
  have hlarge : 2 + p.length < lenMin ∨ lenMax < 2 + p.length := (frameTooLarge_iff p).mpr (by omega)
  simp only [build, ha, hm, hdata, if_pos hlarge]

/-- The frame is built in every state, each with its own `STX`. -/
theorem gives_build_frameOf {addr cmd data : Val} {a m : Byte} {p : Bytes} (ha : toU8 addr = .ok a)
    (hm : toU8 cmd = .ok m) (hdata : toPayload data = .ok p) (hp : p.length ≤ 253) (s : State) :
    Gives (.build addr cmd data) s (.ok (.bytes (frameOf s.stx a m p))) :=
  gives_build_ok_iff.mpr (build_of_fitting_payload ha hm hdata hp s.stx)

/-- R103: every shape but a byte sequence gives a payload of at most two bytes. -/
theorem eq_bytes_of_long_payload {data : Val} {p : Bytes} (hdata : toPayload data = .ok p) (hp : 254 ≤ p.length) :
    data = .bytes p := by
  obtain rfl | ⟨b, rfl⟩ | ⟨hbytes, -⟩ := toPayload_ok_cases hdata
  · simp at hp
  · simp at hp
  · exact hbytes

/-! ### The statements -/

/-- Settles O33: coerced operands are assembled, and integers of 0..255 and data other than one byte coerce to themselves. -/
theorem buildAssemblesFrame : Obligations.BuildAssemblesFrame := by
  refine ⟨fun s addr cmd data a m p ha hm hdata hp => ⟨?_, frameOf_length s.stx a m p⟩,
    fun s a m p hne hp => ⟨?_, ?_⟩⟩
  · rw [gives_toU8_ok_iff] at ha hm
    rw [gives_toPayload_ok_iff] at hdata
    exact gives_build_frameOf ha hm hdata hp s
  · exact gives_build_frameOf (toU8_int_toNat a) (toU8_int_toNat m) (toPayload_bytes hne) hp s
  · exact gives_build_frameOf (p := []) (toU8_int_toNat a) (toU8_int_toNat m) rfl (Nat.zero_le 253) s

/-- Settles O34: the length check is the only one left after the coercions. -/
theorem buildRefusesExactlyLongPayloads : Obligations.BuildRefusesExactlyLongPayloads := by
  intro s addr cmd data a m p ha hm hdata
  rw [gives_toU8_ok_iff] at ha hm
  rw [gives_toPayload_ok_iff] at hdata
  constructor
  · exact fun hp => ⟨frameOf s.stx a m p, gives_build_frameOf ha hm hdata hp s⟩
  · exact fun hp => ⟨gives_build_fail (build_of_long_payload ha hm hdata hp s.stx), eq_bytes_of_long_payload hdata hp⟩

/-- Settles O37: `frameOf` uses `STX` as its first byte only, and the coercions do not read it. -/
theorem stxOnlyInByteZero : Obligations.StxOnlyInByteZero := by
  intro s t addr cmd data f hbuild
  obtain ⟨a, m, p, ha, hm, hdata, hp, rfl⟩ := build_eq_ok_iff.mp (gives_build_ok_iff.mp hbuild)
  rw [assembleFrame_eq_frameOf]
  exact ⟨a, m, p, (frameOf s.stx a m p).tail, rfl, rfl, gives_build_frameOf ha hm hdata hp t, rfl⟩

end Sys2Proof.Machine

/-! PROOFS. `PARSE` (43_frame_validator.md R110 to R120): what each check refuses, that a buffer which passes them begins with a
frame of the block's own `STX`, and what is left of that when one byte of a frame is changed. -/

namespace Sys2Proof.Machine

/-! ### The checks before the checksum (R111 to R114) -/

theorem parse_of_length_lt {buf : Bytes} (h : buf.length < 6) (stx : Byte) : parse stx buf = .error .formatTooShort :=
  if_pos h

theorem parse_of_len_lt {l : Byte} {rest : Bytes} (hlen : 4 ≤ rest.length) (hl : l.toNat < 2) (stx : Byte) :
    parse stx (stx :: l :: rest) = .error .formatBadLen := by
  have hlong : ¬ rest.length + 1 + 1 < frameMin := by simp only [frameMin]; omega
  simp [parse, hlong, hl]

theorem parse_of_truncated {l : Byte} {rest : Bytes} (hlen : 4 ≤ rest.length) (hl : 2 ≤ l.toNat)
    (htrunc : rest.length + 2 < l.toNat + 4) (stx : Byte) :
    parse stx (stx :: l :: rest) = .error .formatTruncated := by
  have hlong : ¬ rest.length + 1 + 1 < frameMin := by simp only [frameMin]; omega
  have hmin : ¬ l.toNat < lenMin := Nat.not_lt.mpr hl
  have hmissing : rest.length + 1 + 1 < 4 + l.toNat := by omega
  simp [parse, hlong, hmin, hmissing]

/-- After the truncation check, every field that `LEN` tells of is in the buffer (R114). -/
theorem exists_frame_fields {l : Byte} {rest : Bytes} (hl : 2 ≤ l.toNat) (hwhole : l.toNat + 4 ≤ rest.length + 2) :
    ∃ a m lo hi p tail, rest = a :: m :: (p ++ lo :: hi :: tail) ∧ l.toNat = 2 + p.length := by
  match rest with
  | [] | [_] => simp at hwhole
  | a :: m :: after =>
    simp only [List.length_cons] at hwhole
    have hafter : 2 ≤ (after.drop (l.toNat - 2)).length := by
      rw [List.length_drop]
      omega
    match hstored : after.drop (l.toNat - 2) with
    | [] | [_] => simp [hstored] at hafter
    | lo :: hi :: tail =>
      refine ⟨a, m, lo, hi, after.take (l.toNat - 2), tail, ?_, ?_⟩
      · rw [← hstored, List.take_append_drop]
      · rw [List.length_take]
        omega

/-- Every buffer fails one of the checks of R111 to R114, or holds all the fields of a frame. -/
theorem buffer_cases (stx : Byte) (buf : Bytes) :
    buf.length < 6 ∨
    (6 ≤ buf.length ∧ byteAt buf 0 ≠ stx) ∨
    (∃ l rest, buf = stx :: l :: rest ∧ 4 ≤ rest.length ∧ l.toNat < 2) ∨
    (∃ l rest, buf = stx :: l :: rest ∧ 4 ≤ rest.length ∧ 2 ≤ l.toNat ∧ rest.length + 2 < l.toNat + 4) ∨
    (∃ l a m lo hi p tail, buf = stx :: l :: a :: m :: (p ++ lo :: hi :: tail) ∧ l.toNat = 2 + p.length) := by
  match buf with
  | [] | [_] => simp
  | x :: l :: rest =>
    by_cases hlen : 4 ≤ rest.length
    · by_cases hx : x = stx
      · subst hx
        by_cases hl : l.toNat < 2
        · exact .inr (.inr (.inl ⟨l, rest, rfl, hlen, hl⟩))
        · rw [Nat.not_lt] at hl
          by_cases htrunc : rest.length + 2 < l.toNat + 4
          · exact .inr (.inr (.inr (.inl ⟨l, rest, rfl, hlen, hl, htrunc⟩)))
          · obtain ⟨a, m, lo, hi, p, tail, rfl, hp⟩ := exists_frame_fields hl (Nat.not_lt.mp htrunc)
            exact .inr (.inr (.inr (.inr ⟨l, a, m, lo, hi, p, tail, rfl, hp⟩)))
      · exact .inr (.inl ⟨by simpa using hlen, by simpa using hx⟩)
    · exact .inl (by simp only [List.length_cons]; omega)

/-! ### The checksum and the result (R115, R116) -/

/-- Two stored bytes are those of a checksum exactly when they write it, low byte first (R48). -/
theorem checksum_bytes_iff {c : U16} {lo hi : Byte} :
    lo = lowByte c ∧ hi = highByte c ↔ c.toNat = lo.toNat + 256 * hi.toNat := by
  have hc := c.isLt
  have hlo := lo.isLt
  have hhi := hi.isLt
  rw [lowByte_eq_mod, highByte_eq_div, ← BitVec.toNat_inj, ← BitVec.toNat_inj, BitVec.toNat_ofNat, BitVec.toNat_ofNat]
  omega

theorem parse_of_checksum_ne (stx a m : Byte) {l lo hi : Byte} {p : Bytes} (hl : l.toNat = 2 + p.length) (tail : Bytes)
    (h : ¬ (lo = lowByte (checksum (l :: a :: m :: p)) ∧ hi = highByte (checksum (l :: a :: m :: p)))) :
    parse stx (stx :: l :: a :: m :: (p ++ lo :: hi :: tail)) = .error .checksumError := by
  rw [parse_whole_frame _ _ _ _ _ hl, if_pos (not_and_or.mp h)]

/-- Bytes with the right `LEN` and the right checksum are the frame of their fields. -/
theorem eq_frameOf_append (stx a m : Byte) {l lo hi : Byte} {p : Bytes} (hl : l.toNat = 2 + p.length) (tail : Bytes)
    (h : lo = lowByte (checksum (l :: a :: m :: p)) ∧ hi = highByte (checksum (l :: a :: m :: p))) :
    stx :: l :: a :: m :: (p ++ lo :: hi :: tail) = frameOf stx a m p ++ tail := by
  have hlenByte : l = BitVec.ofNat 8 (2 + p.length) := by rw [← hl, BitVec.ofNat_toNat, BitVec.setWidth_eq]
  obtain ⟨rfl, rfl⟩ := h
  rw [← assembleFrame_eq_frameOf, assembleFrame_eq, frameChecksum, ← hlenByte]
  simp

/-- R119 with R117: a frame is read back, whatever follows it. -/
theorem parse_frameOf_append (stx a m : Byte) {p : Bytes} (hp : p.length ≤ 253) (tail : Bytes) :
    parse stx (frameOf stx a m p ++ tail) = .ok (.parsed a m p) := by
  rw [← eq_frameOf_append stx a m (lenByte_toNat hp) tail ⟨rfl, rfl⟩, parse_whole_frame _ _ _ _ _ (lenByte_toNat hp)]
  simp

/-- `PARSE` accepts the buffers that begin with a frame of its own `STX`, and no others. -/
theorem parse_eq_ok_iff {stx a m : Byte} {buf p : Bytes} :
    parse stx buf = .ok (.parsed a m p) ↔ p.length ≤ 253 ∧ ∃ tail, buf = frameOf stx a m p ++ tail := by
  constructor
  · intro h
    obtain hshort | ⟨hlen, hx⟩ | ⟨l, rest, rfl, hlen, hl⟩ | ⟨l, rest, rfl, hlen, hl, htrunc⟩ |
      ⟨l, a', m', lo, hi, p', tail, rfl, hl⟩ := buffer_cases stx buf
    · rw [parse_of_length_lt hshort] at h
      cases h
    · rw [parse_of_ne_stx hlen hx] at h
      cases h
    · rw [parse_of_len_lt hlen hl] at h
      cases h
    · rw [parse_of_truncated hlen hl htrunc] at h
      cases h
    · by_cases hsum : lo = lowByte (checksum (l :: a' :: m' :: p')) ∧ hi = highByte (checksum (l :: a' :: m' :: p'))
      · have hp' : p'.length ≤ 253 := by
          have hbyte := l.isLt
          omega
        rw [eq_frameOf_append stx a' m' hl tail hsum, parse_frameOf_append stx a' m' hp'] at h
        cases h
        exact ⟨hp', tail, eq_frameOf_append stx a m hl tail hsum⟩
      · rw [parse_of_checksum_ne stx a' m' hl tail hsum] at h
        cases h
  · rintro ⟨hp, tail, rfl⟩
    exact parse_frameOf_append stx a m hp tail

/-! ### One changed byte (R120) -/

/-- Once `LEN` and the length are in order, a buffer fails by its checksum or not at all. -/
theorem parse_of_contained {l : Byte} {rest : Bytes} (hl : 2 ≤ l.toNat) (hwhole : l.toNat + 4 ≤ rest.length + 2)
    (stx : Byte) :
    parse stx (stx :: l :: rest) = .error .checksumError ∨
      ∃ a m p, parse stx (stx :: l :: rest) = .ok (.parsed a m p) := by
  obtain ⟨a, m, lo, hi, p, tail, rfl, hp⟩ := exists_frame_fields hl hwhole
  rw [parse_whole_frame _ _ _ _ _ hp]
  split
  · exact .inl rfl
  · exact .inr ⟨a, m, p, rfl⟩

/-- R98 (b) for a byte that is overwritten. -/
theorem checksum_set_ne {buf : Bytes} {i : Nat} {b : Byte} (hi : i < buf.length) (hb : buf[i]? ≠ some b) :
    checksum (buf.set i b) ≠ checksum buf := by
  have hne : b ≠ buf[i] := by
    rintro rfl
    exact hb (List.getElem?_eq_getElem hi)
  have hsplit : buf = buf.take i ++ buf[i] :: buf.drop (i + 1) := by simp
  rw [List.set_eq_take_append_cons_drop, if_pos hi]
  conv_rhs => rw [hsplit]
  exact oneChangedByteChangesChecksum _ _ _ _ hne

/-- R98 (a) for a frame: what follows `STX`, its own checksum included, has checksum zero. -/
theorem checksum_frameOf_tail (stx a m : Byte) (p : Bytes) : checksum (frameOf stx a m p).tail = 0x0000#16 :=
  checksumResidueIsZero (BitVec.ofNat 8 (2 + p.length) :: a :: m :: p)

/-- A frame at the beginning of bytes that are as many as its `LEN` asks for is all of them. -/
theorem eq_frameOf_of_length {stx a m : Byte} {buf p tail : Bytes} (h : buf = frameOf stx a m p ++ tail)
    (hlen : buf.length = 6 + p.length) : buf = frameOf stx a m p := by
  have htail : tail.length = 0 := by
    rw [h, List.length_append, frameOf_length] at hlen
    omega
  rw [h, List.length_eq_zero_iff.mp htail, List.append_nil]

/-- A frame with its first two bytes apart. -/
theorem exists_frameOf_eq (stx a m : Byte) (p : Bytes) :
    ∃ rest, frameOf stx a m p = stx :: BitVec.ofNat 8 (2 + p.length) :: rest ∧ rest.length = 4 + p.length := by
  refine ⟨_, rfl, ?_⟩
  have hlen := frameOf_length stx a m p
  simp only [frameOf, List.length_cons] at hlen ⊢
  omega

/-- A smaller `LEN` cuts the payload, or the checksum fails. -/
theorem parse_frameOf_set_shorter_len (stx a m : Byte) {p : Bytes} {b : Byte} (hmin : 2 ≤ b.toNat)
    (hle : b.toNat ≤ 2 + p.length) :
    parse stx ((frameOf stx a m p).set 1 b) = .error .checksumError ∨
      parse stx ((frameOf stx a m p).set 1 b) = .ok (.parsed a m (p.take (b.toNat - 2))) := by
  have hrest := frameOf_length stx a m p
  simp only [frameOf, List.length_cons] at hrest
  simp only [frameOf, List.set_cons_succ, List.set_cons_zero]
  refine (parse_of_contained hmin (by simp only [List.length_cons]; omega) stx).imp_right ?_
  rintro ⟨a', m', p', hok⟩
  obtain ⟨hp', tail, hbuf⟩ := parse_eq_ok_iff.mp hok
  simp only [frameOf, List.cons_append, List.cons.injEq, true_and] at hbuf
  obtain ⟨hlenByte, rfl, rfl, hbytes⟩ := hbuf
  have hlen : b.toNat - 2 = p'.length := by
    rw [hlenByte, lenByte_toNat hp']
    omega
  have htake : p.take (b.toNat - 2) = p' := by
    rw [← List.take_append_of_le_length (by omega), hbytes, hlen, List.append_assoc, List.take_left]
  rw [hok, htake]

/-- R98 (b): a change after `LEN` makes the checksum fail, since it would otherwise be zero both before and after. -/
theorem parse_frameOf_set_after_len (stx a m : Byte) {p : Bytes} {j : Nat} {b : Byte} (hp : p.length ≤ 253)
    (hj : j + 2 < 6 + p.length) (hb : (frameOf stx a m p)[j + 2]? ≠ some b) :
    parse stx ((frameOf stx a m p).set (j + 2) b) = .error .checksumError := by
  obtain ⟨rest, hframe, hlen⟩ := exists_frameOf_eq stx a m p
  have hsum := checksum_frameOf_tail stx a m p
  rw [hframe] at hb hsum ⊢
  have hlenByte := lenByte_toNat hp
  refine (parse_of_contained (by omega) (by rw [List.length_set]; omega) stx).resolve_right ?_
  rintro ⟨a', m', p', hok⟩
  obtain ⟨hp', tail, hbuf⟩ := parse_eq_ok_iff.mp hok
  have hlens : 2 + p.length = 2 + p'.length := by
    injection hbuf with _ hafter
    injection hafter with hbyte _
    rw [← lenByte_toNat hp, hbyte, lenByte_toNat hp']
  have hall := eq_frameOf_of_length hbuf (by simp only [List.length_cons, List.length_set]; omega)
  have hsum' := checksum_frameOf_tail stx a' m' p'
  rw [← hall] at hsum'
  exact checksum_set_ne (i := j + 1) (by simp only [List.length_cons]; omega) hb (hsum'.trans hsum.symm)

/-! ### The statements -/

/-- Settles O38. -/
theorem parseTooShort : Obligations.ParseTooShort :=
  fun s _ hlen => gives_fail_iff.mpr (parse_of_length_lt hlen s.stx)

/-- Settles O39. -/
theorem parseBadStx : Obligations.ParseBadStx :=
  fun _ _ _ hlen hx => gives_fail_iff.mpr (parse_of_ne_stx (Nat.succ_le_succ hlen) hx)

/-- Settles O40. -/
theorem parseBadLen : Obligations.ParseBadLen :=
  fun s _ _ hlen hl => gives_fail_iff.mpr (parse_of_len_lt hlen hl s.stx)

/-- Settles O41. -/
theorem parseTruncated : Obligations.ParseTruncated :=
  fun s _ _ hlen hl htrunc => gives_fail_iff.mpr (parse_of_truncated hlen hl htrunc s.stx)

/-- Settles O42: bytes that match the checksum make a frame, and others are refused. -/
theorem parseChecksumAndResult : Obligations.ParseChecksumAndResult := by
  intro s l a m lo hi p tail hl
  rw [Nat.add_comm, eq_comm] at hl
  constructor
  · intro hsum
    have hp : p.length ≤ 253 := by
      have hbyte := l.isLt
      omega
    rw [eq_frameOf_append s.stx a m hl tail (checksum_bytes_iff.mpr hsum)]
    exact gives_ok_iff.mpr (parse_frameOf_append s.stx a m hp tail)
  · intro hsum
    exact gives_fail_iff.mpr (parse_of_checksum_ne s.stx a m hl tail (mt checksum_bytes_iff.mp hsum))

/-- Settles O43. -/
theorem parseAcceptsExactlyFrames : Obligations.ParseAcceptsExactlyFrames :=
  fun _ _ _ _ _ => gives_ok_iff.trans parse_eq_ok_iff

/-- Settles O44: each check before the checksum looks at `STX` and `LEN`, and the checksum at the frame alone. -/
theorem parseIgnoresTrailingBytes : Obligations.ParseIgnoresTrailingBytes := by
  intro s x l rest tail hlen hwhole
  have hlen' : 4 ≤ (rest ++ tail).length := by
    rw [List.length_append]
    omega
  by_cases hx : x = s.stx
  · subst hx
    by_cases hl : l.toNat < 2
    · exact ⟨_, parseBadLen s l rest hlen hl, parseBadLen s l _ hlen' hl⟩
    · obtain ⟨a, m, lo, hi, p, more, rfl, hp⟩ := exists_frame_fields (Nat.not_lt.mp hl) hwhole
      refine ⟨_, gives_parse_iff.mpr rfl, gives_parse_iff.mpr (congrArg responseOf ?_)⟩
      simp only [List.cons_append, List.append_assoc]
      rw [parse_whole_frame _ _ _ _ _ hp, parse_whole_frame _ _ _ _ _ hp]
  · exact ⟨_, parseBadStx s x (l :: rest) (Nat.succ_le_succ hlen) hx,
      parseBadStx s x (l :: (rest ++ tail)) (Nat.succ_le_succ hlen') hx⟩

/-- Settles O45: `BUILD` answers the frame of the coerced operands, and that frame is read back. -/
theorem parseInvertsBuild : Obligations.ParseInvertsBuild := by
  intro s t addr cmd data a m p ha hm hdata hp hstx
  rw [gives_toU8_ok_iff] at ha hm
  rw [gives_toPayload_ok_iff] at hdata
  refine ⟨frameOf s.stx a m p, gives_build_frameOf ha hm hdata hp s, ?_⟩
  exact (parseAcceptsExactlyFrames t _ a m p).mpr ⟨hp, [], by rw [hstx, List.append_nil]⟩

/-- Settles O46: a changed `STX` or `LEN` meets the checks before the checksum, any other changed byte the checksum. -/
theorem oneCorruptedByteOutcome : Obligations.OneCorruptedByteOutcome := by
  intro s a m p i b hp hi hb
  obtain ⟨rest, hframe, hlen⟩ := exists_frameOf_eq s.stx a m p
  match i with
  | 0 =>
    have hne : b ≠ s.stx := by
      rintro rfl
      exact hb rfl
    rw [hframe]
    exact ⟨_, parseBadStx s b _ (by simp only [List.length_cons]; omega) hne, rfl⟩
  | 1 =>
    by_cases hmin : b.toNat < 2
    · rw [hframe]
      exact ⟨_, parseBadLen s b rest (by omega) hmin, by simp [hmin]⟩
    · by_cases hlong : 2 + p.length < b.toNat
      · rw [hframe]
        exact ⟨_, parseTruncated s b rest (by omega) (by omega) (by omega), by simp [hmin, hlong]⟩
      · obtain h | h := parse_frameOf_set_shorter_len s.stx a m (Nat.not_lt.mp hmin) (Nat.not_lt.mp hlong)
        · exact ⟨_, gives_fail_iff.mpr h, by simp [hmin, hlong]⟩
        · exact ⟨_, gives_ok_iff.mpr h, by simp [hmin, hlong]⟩
  | j + 2 => exact ⟨_, gives_fail_iff.mpr (parse_frameOf_set_after_len s.stx a m hp hi hb), rfl⟩

end Sys2Proof.Machine

/-! PROOFS. What the operations fail with (60_exceptions.md R125, R128): three failures for the coercions, which `BUILD` passes
on in the order of its operands, one more for a payload that does not fit, and five others for the checks of `PARSE`. -/

namespace Sys2Proof.Machine

/-! ### The failures of the coercions (R76, R78, R82, R86 to R88) -/

/-- What a value that cannot be coerced is answered with. -/
def coercionFailures : List Failure := [.typeError, .formatNumber, .rangeValue]

theorem eq_rangeValue_of_rangeU8_error {v : Int} {f : Failure} (h : rangeU8 v = .error f) : f = .rangeValue := by
  unfold rangeU8 at h
  split_ifs at h
  injection h with h
  exact h.symm

theorem eq_rangeValue_of_intPayload_error {v : Int} {f : Failure} (h : intPayload v = .error f) : f = .rangeValue := by
  unfold intPayload at h
  split at h
  · cases h
  · next hrange =>
    injection h with h
    exact h ▸ eq_rangeValue_of_rangeU8_error hrange

theorem formatNumber_mem_coercionFailures : Failure.formatNumber ∈ coercionFailures := by decide

theorem rangeValue_mem_coercionFailures : Failure.rangeValue ∈ coercionFailures := by decide

/-- A text is no numeral, or writes a number outside the range (R76). -/
theorem mem_coercionFailures_of_textNumberU8_error {t : Text} {f : Failure} (h : textNumberU8 t = .error f) :
    f ∈ coercionFailures := by
  cases hv : u8TextValue (trim t) with
  | ok v =>
    rw [textNumberU8_of_ok hv] at h
    exact eq_rangeValue_of_rangeU8_error h ▸ rangeValue_mem_coercionFailures
  | error g =>
    rw [textNumberU8_of_error hv] at h
    injection h with h
    exact h ▸ (reads_u8TextValue _).2 g hv ▸ formatNumber_mem_coercionFailures

/-- A text that is not blank is no numeral, or writes a number outside the range (R86). -/
theorem mem_coercionFailures_of_textPayload_error {t : Text} {f : Failure} (h : textPayload t = .error f) :
    f ∈ coercionFailures := by
  have hne : trim t ≠ [] := by
    intro hnil
    rw [textPayload, if_pos hnil] at h
    cases h
  cases hv : payloadTextValue (trim t) with
  | ok v =>
    rw [textPayload_of_ok hne hv] at h
    exact eq_rangeValue_of_intPayload_error h ▸ rangeValue_mem_coercionFailures
  | error g =>
    rw [textPayload_of_error hne hv] at h
    injection h with h
    exact h ▸ (reads_payloadTextValue _).2 g hv ▸ formatNumber_mem_coercionFailures

theorem mem_coercionFailures_of_toU8_error {v : Val} {f : Failure} (h : toU8 v = .error f) : f ∈ coercionFailures := by
  cases v with
  | none | other =>
    cases h
    decide
  | int n => exact eq_rangeValue_of_rangeU8_error h ▸ rangeValue_mem_coercionFailures
  | text t => exact mem_coercionFailures_of_textNumberU8_error h
  | bytes b =>
    by_cases hb : b.length = 1
    · obtain ⟨x, rfl⟩ := List.length_eq_one_iff.mp hb
      cases h
    · rw [toU8_bytes_eq_text hb] at h
      exact mem_coercionFailures_of_textNumberU8_error h

theorem mem_coercionFailures_of_toPayload_error {v : Val} {f : Failure} (h : toPayload v = .error f) :
    f ∈ coercionFailures := by
  cases v with
  | none => cases h
  | other =>
    cases h
    decide
  | int n => exact eq_rangeValue_of_intPayload_error h ▸ rangeValue_mem_coercionFailures
  | text t => exact mem_coercionFailures_of_textPayload_error h
  | bytes b =>
    by_cases hb : b.length = 1
    · obtain ⟨x, rfl⟩ := List.length_eq_one_iff.mp hb
      cases h
    · rw [toPayload_bytes hb] at h
      cases h

/-- Each of the three is the answer of both coercions to one value: an unsupported shape, a sign without digits, 256. -/
theorem exists_uncoercible {f : Failure} (hf : f ∈ coercionFailures) :
    ∃ v, toU8 v = .error f ∧ toPayload v = .error f := by
  simp only [coercionFailures, List.mem_cons, List.not_mem_nil, or_false] at hf
  obtain rfl | rfl | rfl := hf
  · exact ⟨.other, rfl, rfl⟩
  · exact ⟨.text [0x2D#8], rfl, rfl⟩
  · exact ⟨.int 256, rfl, rfl⟩

/-! ### The failures of `BUILD` (R103, R128) -/

/-- `BUILD` fails where a coercion fails, with the same failure, or at the length check. -/
theorem build_error_cases {stx : Byte} {addr cmd data : Val} {f : Failure} (h : build stx addr cmd data = .error f) :
    toU8 addr = .error f ∨ toU8 cmd = .error f ∨ toPayload data = .error f ∨ f = .rangeFrameTooLarge := by
  cases ha : toU8 addr with
  | error e =>
    rw [build_of_addr_error ha] at h
    cases h
    exact .inl rfl
  | ok a =>
    cases hm : toU8 cmd with
    | error e =>
      rw [build_of_cmd_error ha hm] at h
      cases h
      exact .inr (.inl rfl)
    | ok m =>
      cases hdata : toPayload data with
      | error e =>
        rw [build_of_data_error ha hm hdata] at h
        cases h
        exact .inr (.inr (.inl rfl))
      | ok p =>
        obtain hp | hp := Nat.lt_or_ge 253 p.length
        · rw [build_of_long_payload ha hm hdata hp] at h
          cases h
          exact .inr (.inr (.inr rfl))
        · rw [build_of_fitting_payload ha hm hdata hp] at h
          cases h

/-- Settles O35: the operands are coerced in order, and only the length is checked after them. -/
theorem buildFailureOrder : Obligations.BuildFailureOrder := by
  intro s addr cmd data
  simp only [gives_toU8_ok_iff, gives_toU8_fail_iff, gives_toPayload_ok_iff, gives_toPayload_fail_iff]
  refine ⟨fun f ha => ?_, fun a f ha hm => ?_, fun a m f ha hm hdata => ?_,
    fun a m p ha hm hdata => ⟨fun hp => ?_, fun hp => ?_⟩, fun f => ?_⟩
  · exact gives_build_fail (build_of_addr_error ha s.stx cmd data)
  · exact gives_build_fail (build_of_cmd_error ha hm s.stx data)
  · exact gives_build_fail (build_of_data_error ha hm hdata s.stx)
  · exact gives_build_fail (build_of_long_payload ha hm hdata (by omega) s.stx)
  · exact ⟨_, gives_build_frameOf ha hm hdata (by omega) s⟩
  · rintro (ha | hm | hdata)
    · exact mem_coercionFailures_of_toU8_error ha
    · exact mem_coercionFailures_of_toU8_error hm
    · exact mem_coercionFailures_of_toPayload_error hdata

/-! ### The failures of `PARSE` (R111 to R115) -/

/-- What a buffer that is no frame is answered with, in the order of the checks. -/
def frameFailures : List Failure := [.formatTooShort, .formatBadStx, .formatBadLen, .formatTruncated, .checksumError]

theorem mem_frameFailures_of_parse_error {stx : Byte} {buf : Bytes} {f : Failure} (h : parse stx buf = .error f) :
    f ∈ frameFailures := by
  obtain hshort | ⟨hlen, hx⟩ | ⟨l, rest, rfl, hlen, hl⟩ | ⟨l, rest, rfl, hlen, hl, htrunc⟩ |
    ⟨l, a, m, lo, hi, p, tail, rfl, hl⟩ := buffer_cases stx buf
  · rw [parse_of_length_lt hshort] at h
    cases h
    decide
  · rw [parse_of_ne_stx hlen hx] at h
    cases h
    decide
  · rw [parse_of_len_lt hlen hl] at h
    cases h
    decide
  · rw [parse_of_truncated hlen hl htrunc] at h
    cases h
    decide
  · rw [parse_whole_frame _ _ _ _ _ hl] at h
    split_ifs at h
    cases h
    decide

theorem complement_ne_self (b : Byte) : ~~~b ≠ b := by bv_omega

/-- Each check refuses some buffer, whatever `STX` is: no bytes, another `STX`, `LEN` = 0, `LEN` = 255 in six bytes, and a
complemented low byte of the checksum. -/
theorem exists_parse_error {f : Failure} (hf : f ∈ frameFailures) (stx : Byte) : ∃ buf, parse stx buf = .error f := by
  simp only [frameFailures, List.mem_cons, List.not_mem_nil, or_false] at hf
  obtain rfl | rfl | rfl | rfl | rfl := hf
  · exact ⟨[], rfl⟩
  · exact ⟨~~~stx :: List.replicate 5 0x00#8, parse_of_ne_stx (Nat.le_refl 6) (complement_ne_self stx)⟩
  · exact ⟨stx :: 0x00#8 :: List.replicate 4 0x00#8, parse_of_len_lt (by decide) (by decide) stx⟩
  · exact ⟨stx :: 0xFF#8 :: List.replicate 4 0x00#8, parse_of_truncated (by decide) (by decide) (by decide) stx⟩
  · exact ⟨_, parse_of_checksum_ne stx 0x00#8 0x00#8 (l := 0x02#8) (hi := 0x00#8) (p := []) rfl []
      fun hsum => complement_ne_self _ hsum.1⟩

/-! ### The columns of the status table (R125) -/

theorem mayFail_toU8_iff {v : Val} {f : Failure} : mayFail (.toU8 v) f = true ↔ f ∈ coercionFailures := by
  simp [mayFail, coercionFailures, or_assoc]

theorem mayFail_toPayload_iff {v : Val} {f : Failure} : mayFail (.toPayload v) f = true ↔ f ∈ coercionFailures := by
  simp [mayFail, coercionFailures, or_assoc]

theorem mayFail_build_iff {addr cmd data : Val} {f : Failure} :
    mayFail (.build addr cmd data) f = true ↔ f ∈ coercionFailures ∨ f = .rangeFrameTooLarge := by
  simp [mayFail, coercionFailures, or_assoc]

theorem mayFail_parse_iff {buf : Bytes} {f : Failure} : mayFail (.parse buf) f = true ↔ f ∈ frameFailures := by
  simp [mayFail, frameFailures, or_assoc]

/-- No failure is outside the operation's column. -/
theorem mayFail_of_outcomeOf_error {stx : Byte} {i : Instr} {f : Failure} (h : outcomeOf stx i = .error f) :
    mayFail i f = true := by
  cases i with
  | toU8 v => exact mayFail_toU8_iff.mpr (mem_coercionFailures_of_toU8_error (map_eq_error_iff.mp h))
  | toPayload v => exact mayFail_toPayload_iff.mpr (mem_coercionFailures_of_toPayload_error (map_eq_error_iff.mp h))
  | checksum buf => cases h
  | build addr cmd data =>
    rw [mayFail_build_iff]
    obtain ha | hm | hdata | hlong := build_error_cases (map_eq_error_iff.mp h)
    · exact .inl (mem_coercionFailures_of_toU8_error ha)
    · exact .inl (mem_coercionFailures_of_toU8_error hm)
    · exact .inl (mem_coercionFailures_of_toPayload_error hdata)
    · exact .inr hlong
  | parse buf => exact mayFail_parse_iff.mpr (mem_frameFailures_of_parse_error h)

/-- Every failure of the column is answered to some operands. -/
theorem exists_gives_fail_of_mayFail {i : Instr} {f : Failure} (h : mayFail i f = true) (s : State) :
    ∃ j : Instr, j.opcode = i.opcode ∧ Gives j s (.fail f) := by
  cases i with
  | toU8 v =>
    obtain ⟨w, hw, -⟩ := exists_uncoercible (mayFail_toU8_iff.mp h)
    exact ⟨.toU8 w, rfl, gives_toU8_fail_iff.mpr hw⟩
  | toPayload v =>
    obtain ⟨w, -, hw⟩ := exists_uncoercible (mayFail_toPayload_iff.mp h)
    exact ⟨.toPayload w, rfl, gives_toPayload_fail_iff.mpr hw⟩
  | checksum buf => cases h
  | build addr cmd data =>
    obtain hf | rfl := mayFail_build_iff.mp h
    · obtain ⟨w, hw, -⟩ := exists_uncoercible hf
      exact ⟨.build w .none .none, rfl, gives_build_fail (build_of_addr_error hw s.stx .none .none)⟩
    · have hlong : 254 ≤ (List.replicate 254 0x00#8).length := by rw [List.length_replicate]
      have hpayload : toPayload (.bytes (List.replicate 254 0x00#8)) = .ok (List.replicate 254 0x00#8) :=
        toPayload_bytes (by omega)
      exact ⟨.build (.int 0) (.int 0) (.bytes (List.replicate 254 0x00#8)), rfl,
        gives_build_fail (build_of_long_payload rfl rfl hpayload hlong s.stx)⟩
  | parse buf =>
    obtain ⟨b, hb⟩ := exists_parse_error (mayFail_parse_iff.mp h) s.stx
    exact ⟨.parse b, rfl, gives_fail_iff.mpr hb⟩

/-- Every operation answers `OK` to some operands: the integer 0, no data, any buffer, both together, and a frame. -/
theorem exists_gives_ok (i : Instr) (s : State) :
    ∃ (j : Instr) (r : Result), j.opcode = i.opcode ∧ Gives j s (.ok r) := by
  cases i with
  | toU8 v => exact ⟨.toU8 (.int 0), _, rfl, gives_toU8_ok_iff.mpr rfl⟩
  | toPayload v => exact ⟨.toPayload .none, _, rfl, gives_toPayload_ok_iff.mpr rfl⟩
  | checksum buf => exact ⟨.checksum buf, _, rfl, gives_ok_iff.mpr rfl⟩
  | build addr cmd data =>
    exact ⟨.build (.int 0) (.int 0) .none, _, rfl, gives_build_frameOf (p := []) rfl rfl rfl (Nat.zero_le 253) s⟩
  | parse buf =>
    exact ⟨.parse (frameOf s.stx 0x00#8 0x00#8 [] ++ []), _, rfl,
      gives_ok_iff.mpr (parse_frameOf_append s.stx _ _ (p := []) (Nat.zero_le 253) [])⟩

/-- Settles O48, column by column. -/
theorem statusTable : Obligations.StatusTable :=
  ⟨fun _ _ _ h => mayFail_of_outcomeOf_error (gives_fail_iff.mp h), fun _ s _ h => exists_gives_fail_of_mayFail h s,
    exists_gives_ok⟩

/-! ### Every transaction completes (R131, R142) -/

/-- Settles O52: every meaning is one answer, which writes to the responses and nowhere else. -/
theorem transactionsCompleteAndKeepState : Obligations.TransactionsCompleteAndKeepState := by
  intro i s
  refine ⟨⟨_, gives_iff.mpr rfl⟩, fun t h => ?_⟩
  rw [exec_eq_answer] at h
  injection h with h
  subst h
  exact ⟨State.answer_stx s _, State.answer_host s _, _, State.answer_responses s _⟩

end Sys2Proof.Machine

/-! PROOFS. Resets, the one thing that writes `STX` (70_reset_and_hazards.md R138, R139, 10_state.md R16), what the host is asked
not to do (R143, R144), and the texts that both coercions read alike (R147). -/

namespace Sys2Proof.Machine

/-! ### Resets -/

/-- A reset is one step that only sets `STX`, whether or not a transaction was under way (R138, R139). -/
theorem step_of_host_reset {s : State} {v : Byte} {later : List HostAction}
    (h : s.host = .reset v :: later ∨ ∃ req, s.host = .resetDuring req v :: later) :
    step s = .next { s with stx := v, host := later } := by
  obtain h | ⟨req, h⟩ := h
  · rw [step_of_host_cons h, hostStep, State.resetTo]
  · rw [step_of_host_cons h, hostStep, State.resetTo]

/-- Settles O54: of what a step can do, waiting and answering leave `STX` as it is. -/
theorem onlyResetChangesStx : Obligations.OnlyResetChangesStx := by
  intro s t hstep hstx
  obtain ⟨-, rfl⟩ | ⟨req, later, -, rfl⟩ | ⟨v, later, hhost, rfl⟩ := step_next_cases hstep
  · exact absurd rfl hstx
  · exact absurd rfl hstx
  · exact ⟨later, hhost⟩

/-- Settles O57: right after reset there is no response that could be illegal. -/
theorem resetResponsesLegal : Obligations.ResetResponsesLegal := by
  have hlegal : ∀ c : Config, (State.resetWith c).inv = true := fun c => by
    rw [State.inv, State.resetWith_responses, List.all_nil]
  exact ⟨hlegal Config.default, hlegal⟩

/-- Settles O58. -/
theorem resetLoadsStx : Obligations.ResetLoadsStx :=
  ⟨rfl, State.resetWith_stx, fun _ _ _ h => ⟨_, step_of_host_reset (.inl h), rfl⟩⟩

/-- Settles O59: a reset step, then a request's step from the new `STX`. -/
theorem resetsGiveNoResponse : Obligations.ResetsGiveNoResponse := by
  intro s v later h
  have hreset := step_of_host_reset h
  refine ⟨hreset, fun next more hnext => ⟨responseTo v next, fun t ht => ?_, ?_⟩⟩
  · rw [answers_iff, ht]
  · rw [run_succ_of_next hreset, run_succ_of_next (step_of_host_present hnext), run_zero]

/-! ### What the host is asked not to do -/

/-- Settles O60. -/
theorem hostViolationsAreRefused : Obligations.HostViolationsAreRefused := by
  refine fun s req later => ⟨fun h => ?_, fun h => ?_⟩
  · rw [step_of_host_cons h, hostStep]
  · rw [step_of_host_cons h, hostStep]

/-! ### Prefixed texts -/

/-- On a prefixed text the two grammars leave the same one reading: the letter of `0x` is no hexadecimal digit, and the decimal
reading is for texts without a prefix. -/
theorem payloadNumeral_iff_u8Numeral_of_prefixed {u h : Text} (hp : Prefixed u h) (v : Int) :
    PayloadNumeral u v ↔ U8Numeral u v := by
  constructor
  · rintro (⟨hp', hn⟩ | ⟨hbare, -⟩)
    · exact .hexPrefixed hp' hn
    · exact absurd hp (hbare h)
  · rintro (⟨hp', hn⟩ | hn | ⟨hbare, -, -⟩)
    · exact .hexPrefixed hp' hn
    · exact absurd hn (not_hexNumeral_of_prefixed hp _)
    · exact absurd hp (hbare h)

theorem ne_nil_of_prefixed {u h : Text} (hp : Prefixed u h) : u ≠ [] := by
  obtain rfl | rfl := hp <;> exact List.cons_ne_nil _ _

/-- Settles O21, from O14 and O18: one number in the range, one outside it, or none. -/
theorem prefixedTextReadAlike : Obligations.PrefixedTextReadAlike := by
  intro s t u h hu hp
  have hsame := payloadNumeral_iff_u8Numeral_of_prefixed hp
  obtain ⟨hin, hout, hno⟩ := toU8TextNumerals s t u hu
  obtain ⟨-, hin', hout', hno'⟩ := toPayloadTextNumerals s t u hu
  by_cases hread : ∃ v, U8Numeral u v
  · obtain ⟨v, hv⟩ := hread
    have hv' := (hsame v).mpr hv
    by_cases hrange : v < 0 ∨ 255 < v
    · exact .inr ⟨.rangeValue, hout v hv hrange, hout' v hv' hrange⟩
    · have h0 : 0 ≤ v := by omega
      have h1 : v ≤ 255 := by omega
      exact .inl ⟨BitVec.ofInt 8 v, hin v hv h0 h1, hin' v hv' h0 h1⟩
  · have hnone : ∀ v, ¬ U8Numeral u v := not_exists.mp hread
    exact .inr ⟨.formatNumber, hno hnone, hno' (ne_nil_of_prefixed hp) fun v hv => hnone v ((hsame v).mp hv)⟩

end Sys2Proof.Machine
